-- ==== Sys2Proof/Word.lean ====
section
/-! DEFINITION. The words of the T16: bytes and 16-bit fields, and how a 16-bit field is cut into bytes. -/

namespace Sys2Proof

/-- One byte: a port-page location, an image location, a store cell or a byte on the field link. -/
abbrev Byte := BitVec 8

/-- A 16-bit field: a cycle number, a sequence number, a class code, a remote address, a check word. -/
abbrev Half := BitVec 16

/-- The low byte of a 16-bit field. -/
def Half.low (h : Half) : Byte := h.setWidth 8

/-- The high byte of a 16-bit field. -/
def Half.high (h : Half) : Byte := (h >>> 8).setWidth 8

/-- The 16-bit field with these two bytes. -/
def Half.ofBytes (high low : Byte) : Half := high ++ low

/-- A byte from a flag: bit `k` when the flag is set, 0 otherwise. -/
def Byte.bit (flag : Bool) (k : Nat) : Byte := if flag then BitVec.ofNat 8 (2 ^ k) else 0

end Sys2Proof
end

