-- ==== Sys2Proof/Syntax.lean ====
section
/-! DEFINITION. The commands the T16 takes: one constructor of `Instr` for each row of spec/opcode_table.json, with
the operands the event carries. A byte access carries the port and the byte (or that it is a read), never an address:
the location is where the port's transport stands (R137, R140, R141). -/

namespace Sys2Proof

/-- The three controller ports (1.1). -/
inductive Port where
  | a | b | c
  deriving DecidableEq, Repr

/-- The two SPI ports (1.1). -/
inductive SpiPort where
  | a | b
  deriving DecidableEq, Repr

/-- The level of a pin or of the field link. -/
inductive Level where
  | low | high
  deriving DecidableEq, Repr

/-- The two kinds of part reset (R166), codes of 11.2. -/
inductive ResetCause where
  | powerOn | pin
  deriving DecidableEq, Repr

/-- How far the save in progress has come in its present phase when a part reset cuts it (R172, R175).
`erased0` and `erased1`: cells 0x000 and 0x001 have been erased (phase 1). `written`: how many cells of phase 2 or 3
have been written whole. `torn`: the cell being written in phase 2 is left at its erased value 0xFF.
No save in progress: nothing of it is used. -/
structure SaveCut where
  erased0 : Bool
  erased1 : Bool
  written : Nat
  torn    : Bool
  deriving DecidableEq, Repr

/-- One byte access of a port (R136): a read, or a write of a byte. -/
inductive Access where
  | read
  | write (v : Byte)
  deriving DecidableEq, Repr

/-- The commands: the rows of spec/opcode_table.json in the table's order. -/
inductive Instr where
  | partReset (cause : ResetCause) (addr : Level) (cut : SaveCut)
  | storeLoadDone
  | captEdge (level : Level)
  | spiCsFall (p : SpiPort)
  | spiOperationByte (p : SpiPort) (v : Byte)
  | spiAddressByte (p : SpiPort) (v : Byte)
  | spiCsRise (p : SpiPort)
  | i2cStart
  | i2cTargetAddress (target : BitVec 7) (read : Bool)
  | i2cAddressByte (v : Byte)
  | i2cStop
  | i2cReadNack
  | guardMet
  | guardTimeout
  | requestSent
  | responseTimeout (line : Level)
  | replyByte (v : Byte) (stop : Level)
  | idleTimeout (line : Level)
  | cycleTimerExpiry
  | unknownCommand (p : Port) (code : Byte)
  | claim (p : Port)
  | release (p : Port)
  | revoke (p : Port)
  | enable (p : Port)
  | disable (p : Port)
  | restart (p : Port)
  | clearLatch (p : Port)
  | subscribe (p : Port)
  | unsubscribe (p : Port)
  | advance (p : Port)
  | captureNow (p : Port)
  | cancel (p : Port)
  | portClear (p : Port)
  | linkStart (p : Port)
  | linkStop (p : Port)
  | saveConfig (p : Port)
  | saveEraseDone
  | saveBodyDone (misread : List Host.Cell)
  | saveComplete (cell1 : Byte) (cell0 : Byte)
  | takeSnapshot (p : Port)
  | outputByteWrite (p : Port) (v : Byte)
  | commit (p : Port) (v : Byte)
  | descriptorStore (p : Port) (v : Byte)
  | dataByteStore (p : Port) (v : Byte)
  | writeTrigger (p : Port) (v : Byte)
  | fetchTrigger (p : Port)
  | windowFlagsWrite (p : Port) (v : Byte)
  | eventsWrite (p : Port) (v : Byte)
  | eventEnableWrite (p : Port) (v : Byte)
  | portStatusWrite (p : Port) (v : Byte)
  | pageWrite (p : Port) (v : Byte)
  | ptrWrite (p : Port) (v : Byte)
  | dataAccess (p : Port) (access : Access)
  | bitRateWrite (p : Port) (v : Byte)
  | responseTimeoutWrite (p : Port) (v : Byte)
  | periodWrite (p : Port) (v : Byte)
  | acyclicAllowanceWrite (p : Port) (v : Byte)
  | healthParameterWrite (p : Port) (v : Byte)
  | captureSettingWrite (p : Port) (v : Byte)
  | linkstatOptionsWrite (p : Port) (v : Byte)
  | rolesByteWrite (p : Port) (v : Byte)
  | slotConfigWrite (p : Port) (v : Byte)
  | plainWrite (p : Port) (access : Access)
  | replyStartBit (middle : Level)
  | guardRestart
  deriving DecidableEq, Repr

end Sys2Proof
end

