-- ==== Sys2Proof/Decode.lean ====
section
/-! DEFINITION. The table's rows give no bits (spec/opcode_table.json: every row's "fields" is empty and none has
"fixed"), so no word spells a command (log entry 16). -/

namespace Sys2Proof

/-- The command a word spells by the table's bits: none, since no row gives bits. -/
def decodeTableWord (_nbits _w : Nat) : Option Instr := none

end Sys2Proof
end

