-- ==== Sys2Proof/Config.lean ====
section
/-! DEFINITION. What the T16 fixes: depths, codes and limits the spec gives as constants. No value of the T16 is left
open to an implementation, so this file holds no free value (INVENTORY.md, What the manual leaves open). -/

namespace Sys2Proof.Config

/-- PART_CODE and the identity page's part code (11.1, 11.3.6). -/
def partCode : Byte := 0x16

/-- REVISION and the identity page's revision (11.1, 11.3.6). -/
def revision : Byte := 0x01

/-- Most records in the request queue (R103). -/
def queueDepth : Nat := 8

/-- Most records in the capture ring (R124). -/
def ringDepth : Nat := 8

/-- BUSY replies at which a request fails (R108). -/
def busyLimit : Nat := 3

/-- Highest station address (R35, R43). -/
def maxAddress : Nat := 62

/-- Cells of the store (R164). -/
def storeSize : Nat := 1024

/-- What a cell reads that is erased or was never written (R164). -/
def erasedCell : Byte := 0xFF

/-- Cell 0x000 of a finished image: the low byte of the validation word 0x6D2E (R164). -/
def validation0 : Byte := 0x2E

/-- Cell 0x001 of a finished image: the high byte of the validation word 0x6D2E (R164). -/
def validation1 : Byte := 0x6D

/-- Port C's target address while ADDR was sampled low (R139). -/
def targetLow : BitVec 7 := 0x2C

/-- Port C's target address while ADDR was sampled high (R139). -/
def targetHigh : BitVec 7 := 0x2D

/-- The start value of the CRC register (R10). -/
def crcStart : Half := 0xFFFF

/-- The CRC's generator with the x^16 term left out (R10). -/
def crcPolynomial : Half := 0x1021

end Sys2Proof.Config
end

