-- ==== Sys2Proof/Machine/Crc.lean ====
section
/-! DEFINITION. The check word of frames and of the store image (R10, R164). -/

namespace Sys2Proof.Machine

/-- One bit shifted out of the CRC register at its top; the generator is added when it was 1 (R10). -/
def crcShift (r : Half) : Half :=
  if r.msb then (r <<< 1) ^^^ Config.crcPolynomial else r <<< 1

/-- Several bits shifted out, one after the other. -/
def crcShifts (n : Nat) (r : Half) : Half :=
  match n with
  | 0 => r
  | k + 1 => crcShifts k (crcShift r)

/-- One byte taken most significant bit first into the register (R10). -/
def crcByte (r : Half) (b : Byte) : Half := crcShifts 8 (r ^^^ (b ++ (0 : Byte)))

/-- `k n`, with `n` evaluated to a numeral first, so that the kernel can run a long loop. -/
def evaluated {α : Type} (n : Nat) (k : Nat → α) : α :=
  match n with
  | 0 => k 0
  | m + 1 => k (m + 1)

/-- The register after these bytes, in order. -/
def crcFrom (r : Half) (bytes : List Byte) : Half :=
  match bytes with
  | [] => r
  | b :: rest => evaluated (crcByte r b).toNat fun n => crcFrom (BitVec.ofNat 16 n) rest

/-- The check word over these bytes, in order (R10): start 0xFFFF, no final inversion. -/
def crc (bytes : List Byte) : Half := crcFrom Config.crcStart bytes

end Sys2Proof.Machine
end

