-- ==== Sys2Proof/Machine/State.lean ====
section
/-! DEFINITION. The state of the T16 as plain data, block by block (00_scope.md section 2), the reasons a step can stop,
and the state after part reset. -/

namespace Sys2Proof.Machine

/-- One of something for each port. -/
structure PerPort (α : Type) where
  a : α
  b : α
  c : α
  deriving DecidableEq, Repr

/-- Sixteen bytes: input data, outputs, a safe output, a stage. -/
abbrev Bytes16 := Vector Byte 16

/-- Four bytes: a window's buffers. -/
abbrev Bytes4 := Vector Byte 4

/-- Port roles (R142), codes 0, 1, 2. -/
inductive Role where
  | control | observe | supervise
  deriving DecidableEq, Repr

/-- Pin edge setting (R116, R118), codes 0 to 3. -/
inductive PinEdge where
  | off | rising | falling | both
  deriving DecidableEq, Repr

/-- The global settings of the live configuration (10.4, 11.3.4). -/
structure LiveConfig where
  bitRate       : BitVec 2
  autoStart     : Bool
  period        : Byte
  timeout       : Byte
  allowance     : Byte
  staleLimit    : Byte
  suspectLimit  : Byte
  firstQuick    : Byte
  rejoinQuick   : Byte
  backoffCode   : Byte
  lockoutRounds : Byte
  roles         : PerPort Role
  linkstatHealth : Bool
  linkstatInvert : Bool
  linkstatFault  : Bool
  pinEdge       : PinEdge
  timerDivider  : Byte
  captureSet    : BitVec 16
  eventSet      : BitVec 16
  deriving DecidableEq, Repr

/-- A slot's configuration (3.1). `errSafe` is ERR action SAFE, `releaseSafe` release policy SAFE. -/
structure SlotConfig where
  address       : Byte
  expectedClass : Half
  inputLength   : Byte
  outputLength  : Byte
  pollDivider   : Byte
  enableAtStart : Bool
  errLatch      : Bool
  errSafe       : Bool
  releaseSafe   : Bool
  safeOutput    : Bytes16
  deriving DecidableEq, Repr

/-- Health states (3.3), codes 0 to 5. -/
inductive HealthState where
  | disabled | probing | active | suspect | backoff | lockedOut
  deriving DecidableEq, Repr

/-- Round kinds (3.3). -/
inductive RoundKind where
  | first | rejoin
  deriving DecidableEq, Repr

/-- The outcomes of a failed exchange (1.5). -/
inductive LinkFailure where
  | noReply | badCheck | badEcho | badLength
  deriving DecidableEq, Repr

/-- Lock causes (3.3), codes 0 to 3. -/
inductive LockCause where
  | none | noResponse | wrongClass | wrongShape
  deriving DecidableEq, Repr

/-- A slot's health part (3.3). No last failure is cause NONE. -/
structure Health where
  state         : HealthState
  round         : RoundKind
  quick         : Nat
  rounds        : Nat
  consecutive   : Nat
  backoff       : Nat
  lastFailure   : Option LinkFailure
  lockCause     : LockCause
  goodCount     : Half
  failureCount  : Half
  lossCount     : Byte
  reportedClass : Half
  reportedRevision : Byte
  deriving DecidableEq, Repr

/-- Input record states (4.1), codes 0 to 3. -/
inductive RecordState where
  | never | fresh | stale | lost
  deriving DecidableEq, Repr

/-- A slot's input record (4.1). Its length is the configured input length (R61), held there once. -/
structure InputRecord where
  state      : RecordState
  err        : Bool
  warn       : Bool
  evt        : Bool
  generation : Byte
  age        : Byte
  data       : Bytes16
  updated    : Bool
  deriving DecidableEq, Repr

/-- A slot's output record (4.6). Its output length is the configured one. -/
structure OutputRecord where
  committed   : Bytes16
  commitCount : Byte
  deriving DecidableEq, Repr

/-- Everything held for one slot: slot record (3), input and output record (4), owner (5.1). -/
structure Slot where
  config : SlotConfig
  health : Health
  input  : InputRecord
  output : OutputRecord
  owner  : Option Port
  deriving DecidableEq, Repr

/-- A copy of an input record with its length: what a read snapshot (R75) and a capture entry (R122) hold. -/
structure RecordCopy where
  slot       : Fin 16
  state      : RecordState
  err        : Bool
  warn       : Bool
  evt        : Bool
  generation : Byte
  age        : Byte
  length     : Byte
  data       : Bytes16
  deriving DecidableEq, Repr

/-- An output stage that holds a slot (5.5). An empty stage is `none`. -/
structure Stage where
  slot  : Fin 16
  bytes : Bytes16
  deriving DecidableEq, Repr

/-- Window states (6.1), codes 0 to 5. -/
inductive WindowState where
  | idle | queued | inFlight | cancelling | done | failed
  deriving DecidableEq, Repr

/-- Window causes (R97), codes 0 to 13; `link f` is codes 1 to 4. -/
inductive Cause where
  | none | link (f : LinkFailure) | rejected | busy | slotLeft | linkStopped | cancelled
  | role | notOwner | notActive | queueFull
  deriving DecidableEq, Repr

/-- A remote window (6.1). `fetch` is mode FETCH (clear for WRITE). -/
structure Window where
  slot      : Fin 16
  fetch     : Bool
  step      : Bool
  address   : Half
  mask      : BitVec 4
  assembly  : Bytes4
  result    : Bytes4
  state     : WindowState
  cause     : Cause
  detail    : Byte
  overrun   : Bool
  clearMark : Bool
  deriving DecidableEq, Repr

/-- What a window's request asks for (R102): READ, or WRITE with its four bytes. -/
inductive RequestKind where
  | read
  | write (data : Bytes4)
  deriving DecidableEq, Repr

/-- A request record (R102). -/
structure Request where
  port    : Port
  window  : Fin 4
  slot    : Fin 16
  kind    : RequestKind
  address : Half
  busy    : Nat
  deriving DecidableEq, Repr

/-- Command results (8.7), codes 0 to 11. -/
inductive Result where
  | none | done | inProgress | refusedRole | refusedState | badArg | refusedOwned | notOwner | empty | busy
  | failedVerify | unknownCommand
  deriving DecidableEq, Repr

/-- A port's command slot (R146). -/
structure CommandSlot where
  inProgress : Bool
  code       : Byte
  arg0       : Byte
  arg1       : Byte
  arg2       : Byte
  result     : Result
  detail     : Byte
  deriving DecidableEq, Repr

/-- A subscribed port's cursor (R125): its value, and its place in the ring as the number of records unread, which are
the run at the newest end (log entry 12). -/
structure Cursor where
  value  : Half
  unread : Nat
  deriving DecidableEq, Repr

/-- The port context of one port (section 5, Port context). READY and SNAPSHOT of PORT_STATUS are views of
`State.ready` and of `snapshot`. -/
structure PortContext where
  page           : BitVec 6
  pointer        : BitVec 13
  command        : CommandSlot
  accessRefused  : Bool
  stageDiscarded : Bool
  cmdOverrun     : Bool
  snapshot       : Option RecordCopy
  stage          : Option Stage
  windows        : Vector Window 4
  events         : Byte
  enables        : Byte
  cursor         : Option Cursor
  deriving DecidableEq, Repr

/-- Where an SPI transfer stands (R137, R154). `abandoned`: a part reset fell in the transfer and CS has not risen
since. -/
inductive SpiPhase where
  | idle
  | operation
  | address (write : Bool)
  | data (write : Bool) (current : Byte)
  | void
  | abandoned
  deriving DecidableEq, Repr

/-- The transport of an SPI port: its transfer, and what it drives on MISO for the byte last taken (R137). -/
structure Spi where
  phase : SpiPhase
  miso  : Option Byte
  deriving DecidableEq, Repr

/-- Where Port C's transaction stands (R139, R140). `idle`: the bus is ignored until a start condition. -/
inductive I2cPhase where
  | idle | target | firstByte | writing | reading
  deriving DecidableEq, Repr

/-- The transport of Port C: its transaction, its current address, the ADDR level sampled at reset, the byte it sends
on SDA, and whether it acknowledged the last byte. -/
structure I2c where
  phase   : I2cPhase
  current : Byte
  addr    : Level
  sda     : Option Byte
  ack     : Bool
  deriving DecidableEq, Repr

/-- Exchange kinds (R7), codes 0 to 3. -/
inductive Kind where
  | cyclic | ident | read | write
  deriving DecidableEq, Repr

/-- A request the scheduler has handed to the link engine and that has not begun (R4). A READ or WRITE serves the
window unit's record `State.out`. -/
structure Handed where
  kind : Kind
  slot : Fin 16
  deriving DecidableEq, Repr

/-- The exchange in flight (1.3): frozen at its begin, but for the reply bytes received so far. -/
structure Exchange where
  kind     : Kind
  slot     : Fin 16
  request  : List Byte
  expected : Nat
  timeout  : Byte
  rate     : BitVec 2
  received : List Byte
  deriving DecidableEq, Repr

/-- From which moment the guard under way is measured (R5): the entry into QUIET, or the last low on the line. -/
inductive GuardFrom where
  | quietEntry | lastLow
  deriving DecidableEq, Repr

/-- The idle timer of RECEIVING (R14): stopped while a byte is being received, running between bytes, or at its limit
with the line low. -/
inductive IdleTimer where
  | stopped | running | expiredLow
  deriving DecidableEq, Repr

/-- The link engine (1.3). In QUIET it holds the bit rate the guard is measured in (R5). In WAITING the response timer
runs, or has reached its limit with the line low (R11). -/
inductive Engine where
  | ready
  | quiet (rate : BitVec 2) (since : GuardFrom)
  | sending (x : Exchange)
  | waiting (x : Exchange) (expiredLow : Bool)
  | receiving (x : Exchange) (idle : IdleTimer)
  deriving DecidableEq, Repr

/-- Link states (2.3), codes 0 to 2. -/
inductive LinkState where
  | stopped | running | stopping
  deriving DecidableEq, Repr

/-- The cycle scheduler (2.1). `timer` is the period in µs of the running cycle timer. `plan` holds the planned slots
whose turn has not come, in slot order: the place reached is its head. -/
structure Scheduler where
  link       : LinkState
  timer      : Option Nat
  cycle      : Half
  overruns   : Half
  inCycle    : Bool
  plan       : List (Fin 16)
  allowance  : Nat
  acyclic    : Nat
  deferred   : Bool
  waiters    : PerPort Bool
  discard    : Bool
  deriving DecidableEq, Repr

/-- Capture sources (7.2), codes 0 to 3, with their details. -/
inductive Source where
  | pin
  | timer
  | station (s : Fin 16)
  | command (p : Port)
  deriving DecidableEq, Repr

/-- A capture record (R122). The entry count is the length of `entries`. -/
structure CaptureRecord where
  sequence   : Half
  source     : Source
  cycle      : Half
  lostBefore : Byte
  entries    : List RecordCopy
  deriving DecidableEq, Repr

/-- The capture unit (7), less its settings and the ports' cursors. The ring is oldest first. -/
structure Capture where
  ring     : List CaptureRecord
  sequence : Half
  lost     : Byte
  deriving DecidableEq, Repr

/-- Store states (R165), codes 1 to 3. -/
inductive StoreState where
  | valid | defaulted | saving
  deriving DecidableEq, Repr

/-- Last save results (R165), codes 0, 2, 1, 10. -/
inductive SaveResult where
  | none | inProgress | done | failedVerify
  deriving DecidableEq, Repr

/-- The phases of a save (R172). -/
inductive SavePhase where
  | erase | body | validation
  deriving DecidableEq, Repr

/-- A save in progress (R171): its image, its phase, its issuer and whether the issuer is to be told (R174). -/
structure Save where
  image  : List Byte
  phase  : SavePhase
  issuer : Port
  tell   : Bool
  deriving DecidableEq, Repr

/-- The configuration store (10). `cells` is in the canonical form of Machine/Memory.lean. -/
structure Store where
  cells      : List Host.Cell
  state      : StoreState
  resetCause : ResetCause
  lastSave   : SaveResult
  save       : Option Save
  deriving DecidableEq, Repr

/-- The attention unit's output levels, the transmit enable, and the level last seen on CAPT. `attn` and `linkstat` are
derived again at the end of every command (R159, R162). -/
structure Pins where
  attn     : PerPort Level
  linkstat : Level
  linkDe   : Bool
  capt     : Level
  deriving DecidableEq, Repr

/-- The whole T16, and the queue of commands that are waiting, first in, first out. -/
structure State where
  ready   : Bool
  config  : LiveConfig
  roles   : PerPort Role
  slots   : Vector Slot 16
  ports   : PerPort PortContext
  spiA    : Spi
  spiB    : Spi
  i2c     : I2c
  engine  : Engine
  handed  : Option Handed
  sched   : Scheduler
  queue   : List Request
  out     : Option Request
  capture : Capture
  store   : Store
  phase   : Bool
  pins    : Pins
  pending : List Instr
  deriving DecidableEq, Repr

/-- Why the machine stops with a fault: the spec names no event at which the T16 stops (log entry 15). -/
inductive Fault : Type
  deriving DecidableEq, Repr

/-- Why a command is refused. -/
inductive Refusal where
  /-- Raised by exec's arm for a command that has no meaning yet: safe, since nothing is claimed of it. No arm answers
  with it. -/
  | notModelled (mnemonic : String)
  deriving DecidableEq, Repr

/-- The default configuration (10.4). -/
def LiveConfig.default : LiveConfig where
  bitRate := 2
  autoStart := false
  period := 8
  timeout := 20
  allowance := 2
  staleLimit := 8
  suspectLimit := 3
  firstQuick := 5
  rejoinQuick := 2
  backoffCode := 50
  lockoutRounds := 3
  roles := ⟨.control, .control, .supervise⟩
  linkstatHealth := false
  linkstatInvert := false
  linkstatFault := false
  pinEdge := .off
  timerDivider := 0
  captureSet := 0
  eventSet := 0

/-- A slot's default configuration (R36). -/
def SlotConfig.default : SlotConfig where
  address := 0
  expectedClass := 0
  inputLength := 0
  outputLength := 0
  pollDivider := 1
  enableAtStart := false
  errLatch := false
  errSafe := false
  releaseSafe := false
  safeOutput := Vector.replicate 16 0

/-- A slot's health part after part reset (R39). -/
def Health.reset : Health where
  state := .disabled
  round := .first
  quick := 0
  rounds := 0
  consecutive := 0
  backoff := 0
  lastFailure := none
  lockCause := .none
  goodCount := 0
  failureCount := 0
  lossCount := 0
  reportedClass := 0
  reportedRevision := 0

/-- An input record after part reset, enable and disable (R67, R68, R78). -/
def InputRecord.reset : InputRecord where
  state := .never
  err := false
  warn := false
  evt := false
  generation := 0
  age := 0
  data := Vector.replicate 16 0
  updated := false

/-- A slot after part reset (R36, R39, R78, R93). -/
def Slot.reset : Slot where
  config := .default
  health := .reset
  input := .reset
  output := ⟨Vector.replicate 16 0, 0⟩
  owner := none

/-- A window after part reset (R95). -/
def Window.reset : Window where
  slot := 0
  fetch := false
  step := false
  address := 0
  mask := 0
  assembly := Vector.replicate 4 0
  result := Vector.replicate 4 0
  state := .idle
  cause := .none
  detail := 0
  overrun := false
  clearMark := false

/-- A command slot after part reset (R146). -/
def CommandSlot.reset : CommandSlot := ⟨false, 0, 0, 0, 0, .none, 0⟩

/-- A port context after part reset (R77, R93, R95, R133, R154, R160). -/
def PortContext.reset : PortContext where
  page := 0
  pointer := 0
  command := .reset
  accessRefused := false
  stageDiscarded := false
  cmdOverrun := false
  snapshot := none
  stage := none
  windows := Vector.replicate 4 .reset
  events := 0
  enables := 0
  cursor := none

/-- The scheduler after part reset (R18); the allowance copy is DESIGN CHOICE 0 (log entry 3). -/
def Scheduler.reset : Scheduler where
  link := .stopped
  timer := none
  cycle := 0
  overruns := 0
  inCycle := false
  plan := []
  allowance := 0
  acyclic := 0
  deferred := false
  waiters := ⟨false, false, false⟩
  discard := false

/-- The machine right after a power-on reset, at the begin of LOADING (R17, R18, R39, R78, R93, R95, R133, R154, R160,
R163, R165). DESIGN CHOICE (log entries 3 to 7): the settings and store state not yet loaded, a store never written, the
reset cause, and the levels of ADDR, CAPT and CS. -/
def State.reset : State where
  ready := false
  config := .default
  roles := ⟨.control, .control, .supervise⟩
  slots := Vector.replicate 16 .reset
  ports := ⟨.reset, .reset, .reset⟩
  spiA := ⟨.idle, none⟩
  spiB := ⟨.idle, none⟩
  i2c := ⟨.idle, 0, .low, none, false⟩
  engine := .quiet 0 .quietEntry
  handed := none
  sched := .reset
  queue := []
  out := none
  capture := ⟨[], 0, 0⟩
  store := ⟨[], .defaulted, .powerOn, .none, none⟩
  phase := false
  pins := ⟨⟨.high, .high, .high⟩, .high, false, .low⟩
  pending := []

end Sys2Proof.Machine
end

