-- ==== Sys2Proof/Machine/Ops.lean ====
section
/-! DEFINITION. The named operations over the state's parts: one home for each register, reached through these. -/

namespace Sys2Proof

/-- A port's code in a field that holds a port (section 4): A 1, B 2, C 3. -/
def Port.code (p : Port) : Byte :=
  match p with
  | .a => 1
  | .b => 2
  | .c => 3

/-- The code of a field that holds a port or none (section 4). -/
def ownerCode (p : Option Port) : Byte :=
  match p with
  | none => 0
  | some q => q.code

/-- The port an SPI transport belongs to. -/
def SpiPort.port (p : SpiPort) : Port :=
  match p with
  | .a => .a
  | .b => .b

/-- An access is a write. -/
def Access.isWrite (x : Access) : Bool :=
  match x with
  | .read => false
  | .write _ => true

/-- Reset cause codes (R165). -/
def ResetCause.code (x : ResetCause) : Byte :=
  match x with
  | .powerOn => 1
  | .pin => 2

end Sys2Proof

namespace Sys2Proof.Machine

/-- The part of port `p`. -/
def PerPort.get {α : Type} (x : PerPort α) (p : Port) : α :=
  match p with
  | .a => x.a
  | .b => x.b
  | .c => x.c

/-- The part of port `p` replaced. -/
def PerPort.set {α : Type} (x : PerPort α) (p : Port) (v : α) : PerPort α :=
  match p with
  | .a => { x with a := v }
  | .b => { x with b := v }
  | .c => { x with c := v }

/-- The part of every port changed alike. -/
def PerPort.map {α β : Type} (f : α → β) (x : PerPort α) : PerPort β := ⟨f x.a, f x.b, f x.c⟩

/-- A word with bit `k` of it looked at, for the sets of marks (R116). -/
def marked (marks : BitVec 16) (s : Fin 16) : Bool := marks.getLsbD s.val

/-- One more, staying at the highest value (saturating counts, 3.3). -/
def saturate {w : Nat} (x : BitVec w) : BitVec w := if x = BitVec.allOnes w then x else x + 1

/-- The slot an argument names, when it is 0 to 15 (R147). -/
def slotOf (arg : Byte) : Option (Fin 16) :=
  if h : arg.toNat < 16 then some ⟨arg.toNat, h⟩ else none

/-- The window an argument names, when it is 0 to 3 (R147). -/
def windowOf (arg : Byte) : Option (Fin 4) :=
  if h : arg.toNat < 4 then some ⟨arg.toNat, h⟩ else none

/-- Byte `k` of a buffer replaced. -/
def setByte {n : Nat} (v : Vector Byte n) (k : Fin n) (b : Byte) : Vector Byte n := v.set k.val b k.isLt

/-- The slots in order, 0 to 15. -/
def allSlots : List (Fin 16) := List.finRange 16

namespace State

/-- The context of port `p`. -/
def port (s : State) (p : Port) : PortContext := s.ports.get p

/-- The context of port `p` changed. -/
def modPort (s : State) (p : Port) (f : PortContext → PortContext) : State :=
  { s with ports := s.ports.set p (f (s.port p)) }

/-- Every port's context changed alike. -/
def modPorts (s : State) (f : PortContext → PortContext) : State := { s with ports := s.ports.map f }

/-- Everything held for slot `i`. -/
def slot (s : State) (i : Fin 16) : Slot := s.slots[i]

/-- Slot `i` changed. -/
def modSlot (s : State) (i : Fin 16) (f : Slot → Slot) : State :=
  { s with slots := s.slots.set i.val (f (s.slot i)) i.isLt }

/-- Every slot changed alike. -/
def modSlots (s : State) (f : Slot → Slot) : State :=
  { s with slots := Vector.ofFn fun i : Fin 16 => f (s.slot i) }

/-- The role in force of port `p` (R142). -/
def role (s : State) (p : Port) : Role := s.roles.get p

/-- Window `w` of port `p` (6.1). -/
def window (s : State) (p : Port) (w : Fin 4) : Window := (s.port p).windows[w]

/-- Window `w` of port `p` changed. -/
def modWindow (s : State) (p : Port) (w : Fin 4) (f : Window → Window) : State :=
  s.modPort p fun c => { c with windows := c.windows.set w.val (f c.windows[w]) w.isLt }

/-- The scheduler's state changed. -/
def modSched (s : State) (f : Scheduler → Scheduler) : State := { s with sched := f s.sched }

/-- A write an owner ignores under a rule that sets ACCESS_REFUSED (R136, R152). -/
def refuse (s : State) (p : Port) : State := s.modPort p fun c => { c with accessRefused := true }

end State

end Sys2Proof.Machine
end

