-- ==== Sys2Proof/Machine/Flags.lean ====
section
/-! DEFINITION. Event flags, enables, attention lines and the LINKSTAT pin (09), and PORT_STATUS (R152). -/

namespace Sys2Proof.Machine

/-- The sticky event flags (9.1). CAPTURE_READY, bit 0, is a level flag (R157) and is never raised. -/
inductive Event where
  | captureLost | windowDone | slotChange | claimLost | overrun | cmdDone | linkChange
  deriving DecidableEq, Repr

/-- A flag's bit in EVENTS and EVENT_ENABLE (11.2). -/
def Event.mask (e : Event) : Byte :=
  match e with
  | .captureLost => 0x02
  | .windowDone => 0x04
  | .slotChange => 0x08
  | .claimLost => 0x10
  | .overrun => 0x20
  | .cmdDone => 0x40
  | .linkChange => 0x80

/-- CAPTURE_READY's bit in EVENTS (11.2). -/
def captureReadyMask : Byte := 0x01

/-- A flag set in a port's context; a flag already set stays set (R155). -/
def PortContext.raise (e : Event) (c : PortContext) : PortContext := { c with events := c.events ||| e.mask }

/-- A write of 1 clears a sticky flag; CAPTURE_READY is not touched (R156). -/
def PortContext.clearEvents (v : Byte) (c : PortContext) : PortContext :=
  { c with events := c.events &&& ~~~(v &&& ~~~captureReadyMask) }

/-- CAPTURE_READY's condition: the port is subscribed and a record is at its cursor (R130). -/
def PortContext.hasRecord (c : PortContext) : Bool :=
  match c.cursor with
  | none => false
  | some k => 0 < k.unread

/-- CAPTURE_READY shows its condition (R157). -/
def PortContext.settle (c : PortContext) : PortContext :=
  { c with events := (c.events &&& ~~~captureReadyMask) ||| (if c.hasRecord then captureReadyMask else 0) }

/-- A port's attention line is asserted, low, while a flag is set and enabled (R159). -/
def PortContext.attention (c : PortContext) : Level := if c.events &&& c.enables = 0 then .high else .low

/-- PORT_STATUS as it reads (R152, 11.1). -/
def PortContext.status (c : PortContext) (ready : Bool) : Byte :=
  Byte.bit ready 0 ||| Byte.bit c.accessRefused 1 ||| Byte.bit c.stageDiscarded 2 ||| Byte.bit c.cmdOverrun 3 |||
    Byte.bit c.snapshot.isSome 4

/-- A write to PORT_STATUS clears the sticky flags written with 1 (R152). -/
def PortContext.clearStatus (v : Byte) (c : PortContext) : PortContext :=
  { c with
    accessRefused := c.accessRefused && !v.getLsbD 1
    stageDiscarded := c.stageDiscarded && !v.getLsbD 2
    cmdOverrun := c.cmdOverrun && !v.getLsbD 3 }

namespace State

/-- A flag raised in one port (R155). -/
def raise (s : State) (e : Event) (p : Port) : State := s.modPort p (·.raise e)

/-- A flag raised in every port, whatever their roles and enables (R155). -/
def raiseAll (s : State) (e : Event) : State := s.modPorts (·.raise e)

/-- Some slot is LOCKED_OUT. -/
def someLockedOut (s : State) : Bool := allSlots.any fun i => (s.slot i).health.state = .lockedOut

/-- Every slot that is not DISABLED is ACTIVE. -/
def allActive (s : State) : Bool :=
  allSlots.all fun i => (s.slot i).health.state = .disabled || (s.slot i).health.state = .active

/-- Whether LINKSTAT is asserted (R162's table). -/
def linkstatAsserted (s : State) : Bool :=
  if s.sched.link = .stopped then false
  else if s.config.linkstatHealth then (if s.config.linkstatFault then s.someLockedOut else s.allActive)
  else if s.config.linkstatFault && s.someLockedOut then true
  else s.phase

/-- LINKSTAT's level: asserted is low with invert off and high with invert on (R162). -/
def linkstatLevel (s : State) : Level := if s.linkstatAsserted = s.config.linkstatInvert then .high else .low

/-- LINK_DE is asserted while the engine is SENDING (R1, R4). -/
def transmitEnable (s : State) : Bool :=
  match s.engine with
  | .sending _ => true
  | _ => false

/-- The levels the attention unit and the engine drive, as the state stands. -/
def drivenPins (s : State) : Pins :=
  { s.pins with attn := s.ports.map (·.attention), linkstat := s.linkstatLevel, linkDe := s.transmitEnable }

/-- The end of every command: CAPTURE_READY, the attention lines, LINKSTAT and LINK_DE are derived again (R157, R159,
R162). -/
def settle (s : State) : State :=
  let t := s.modPorts (·.settle)
  { t with pins := t.drivenPins }

/-- What a command answers: the settled state. -/
def finish (s : State) : Host.Outcome State Fault Refusal := .next s.settle

end State

end Sys2Proof.Machine
end

