-- ==== Sys2Proof/Machine/Memory.lean ====
section
/-! DEFINITION. The store's cells as memory: a list of (address, byte) pairs in one canonical form. An unlisted cell
reads 0xFF, the value of a cell erased or never written (R164). -/

namespace Sys2Proof.Machine

/-- The store's cells, addresses strictly rising, none listed that reads as an unlisted one, none outside the store. -/
abbrev Memory := List Host.Cell

/-- The canonical form from address `from` on. -/
def Memory.wfFrom (start : Nat) (m : Memory) : Bool :=
  match m with
  | [] => true
  | (a, v) :: rest => start ≤ a && a < Config.storeSize && v ≠ Config.erasedCell && Memory.wfFrom (a + 1) rest

/-- The canonical form: equal memories are equal lists. -/
def Memory.wf (m : Memory) : Bool := Memory.wfFrom 0 m

/-- What cell `a` reads (R164). -/
def Memory.read (m : Memory) (a : Nat) : Byte :=
  match m with
  | [] => Config.erasedCell
  | (b, v) :: rest => if a = b then v else Memory.read rest a

/-- A listed cell, or nothing where the value is the one an unlisted cell reads. -/
def Memory.cell (a : Nat) (v : Byte) (rest : Memory) : Memory :=
  if v = Config.erasedCell then rest else (a, v) :: rest

/-- Cell `a` takes `v`. -/
def Memory.insert (m : Memory) (a : Nat) (v : Byte) : Memory :=
  match m with
  | [] => Memory.cell a v []
  | (b, w) :: rest =>
    if a < b then Memory.cell a v ((b, w) :: rest)
    else if a = b then Memory.cell a v rest
    else (b, w) :: Memory.insert rest a v

/-- Cell `a` takes `v`; nothing is written outside the store's 1024 cells (R164). -/
def Memory.write (m : Memory) (a : Nat) (v : Byte) : Memory :=
  if a < Config.storeSize then m.insert a v else m

/-- The cells from `start` on, `n` of them, as the bytes they read. -/
def Memory.expand (n start : Nat) (m : Memory) : List Byte :=
  match n with
  | 0 => []
  | k + 1 =>
    match m with
    | [] => Config.erasedCell :: Memory.expand k (start + 1) []
    | (b, v) :: rest =>
      if b = start then v :: Memory.expand k (start + 1) rest
      else Config.erasedCell :: Memory.expand k (start + 1) ((b, v) :: rest)

/-- The memory whose cells from `start` on hold these bytes, as far as the store reaches. -/
def Memory.ofBytes (start : Nat) (bytes : List Byte) : Memory :=
  match bytes with
  | [] => []
  | v :: rest =>
    if start < Config.storeSize then Memory.cell start v (Memory.ofBytes (start + 1) rest) else []

end Sys2Proof.Machine
end

