-- ==== Sys2Proof/Machine/Configuration.lean ====
section
/-! DEFINITION. The bytes of the live configuration, their ranges, and the stored image (10, 11.3.2, 11.3.4, 11.5). -/

namespace Sys2Proof.Machine

/-- Role codes (R142). -/
def Role.code (r : Role) : BitVec 2 :=
  match r with
  | .control => 0
  | .observe => 1
  | .supervise => 2

/-- The role a code names; 3 names none and never passes the range check (R142, R167, R170). -/
def Role.ofCode (c : BitVec 2) : Role := if c = 0 then .control else if c = 1 then .observe else .supervise

/-- Pin edge codes (R116). -/
def PinEdge.code (e : PinEdge) : Byte :=
  match e with
  | .off => 0
  | .rising => 1
  | .falling => 2
  | .both => 3

/-- The pin edge setting a code names (R116); above 3 never passes the range check. -/
def PinEdge.ofCode (v : Byte) : PinEdge :=
  if v = 0 then .off else if v = 1 then .rising else if v = 2 then .falling else .both

/-- The global settings' bytes: settings page +0x10 to +0x21 and cells 0x003 to 0x014, in this order (11.3.4). -/
inductive Global where
  | bitRate | period | timeout | allowance | staleLimit | suspectLimit | firstQuick | rejoinQuick | backoff | lockout
  | roles | linkstat | pinEdge | timerDivider | captureLow | captureHigh | eventLow | eventHigh
  deriving DecidableEq, Repr

/-- The global settings' bytes in the order of the store image. -/
def Global.all : List Global :=
  [.bitRate, .period, .timeout, .allowance, .staleLimit, .suspectLimit, .firstQuick, .rejoinQuick, .backoff, .lockout,
    .roles, .linkstat, .pinEdge, .timerDivider, .captureLow, .captureHigh, .eventLow, .eventHigh]

/-- The six health parameters (3.2). -/
def Global.isHealth (g : Global) : Bool :=
  g = .staleLimit || g = .suspectLimit || g = .firstQuick || g = .rejoinQuick || g = .backoff || g = .lockout

/-- The capture settings (7.1). -/
def Global.isCapture (g : Global) : Bool :=
  g = .pinEdge || g = .timerDivider || g = .captureLow || g = .captureHigh || g = .eventLow || g = .eventHigh

/-- Bits `k` and `k + 1` of a byte. -/
def twoBits (v : Byte) (k : Nat) : BitVec 2 := (v >>> k).setWidth 2

/-- Whether a byte lies in the range of its setting: the same ranges at a write (R2, R3, R19, R20, R37, R116, R161,
R170) and at the load (R167). -/
def Global.inRange (g : Global) (v : Byte) : Bool :=
  match g with
  | .bitRate => true
  | .period => 1 ≤ v.toNat && v.toNat ≤ 128
  | .timeout => 1 ≤ v.toNat && v.toNat ≤ 63
  | .allowance => 1 ≤ v.toNat && v.toNat ≤ 4
  | .staleLimit => 1 ≤ v.toNat
  | .suspectLimit => 1 ≤ v.toNat && v.toNat ≤ 7
  | .firstQuick => 1 ≤ v.toNat && v.toNat ≤ 15
  | .rejoinQuick => 1 ≤ v.toNat && v.toNat ≤ 15
  | .backoff => 1 ≤ v.toNat
  | .lockout => v.toNat ≤ 7
  | .roles => twoBits v 0 ≠ 3 && twoBits v 2 ≠ 3 && twoBits v 4 ≠ 3
  | .linkstat => true
  | .pinEdge => v.toNat ≤ 3
  | .timerDivider => true
  | .captureLow => true
  | .captureHigh => true
  | .eventLow => true
  | .eventHigh => true

/-- The low byte of a 16-bit set replaced (R116). -/
def setLow (h : BitVec 16) (v : Byte) : BitVec 16 := Half.ofBytes (Half.high h) v

/-- The high byte of a 16-bit set replaced (R116). -/
def setHigh (h : BitVec 16) (v : Byte) : BitVec 16 := Half.ofBytes v (Half.low h)

/-- A setting takes a byte that is in range; the bits that belong to no field are discarded (R177). -/
def LiveConfig.put (c : LiveConfig) (g : Global) (v : Byte) : LiveConfig :=
  match g with
  | .bitRate => { c with bitRate := twoBits v 0, autoStart := v.getLsbD 7 }
  | .period => { c with period := v }
  | .timeout => { c with timeout := v }
  | .allowance => { c with allowance := v }
  | .staleLimit => { c with staleLimit := v }
  | .suspectLimit => { c with suspectLimit := v }
  | .firstQuick => { c with firstQuick := v }
  | .rejoinQuick => { c with rejoinQuick := v }
  | .backoff => { c with backoffCode := v }
  | .lockout => { c with lockoutRounds := v }
  | .roles => { c with roles := ⟨.ofCode (twoBits v 0), .ofCode (twoBits v 2), .ofCode (twoBits v 4)⟩ }
  | .linkstat =>
    { c with linkstatHealth := v.getLsbD 0, linkstatInvert := v.getLsbD 1, linkstatFault := v.getLsbD 2 }
  | .pinEdge => { c with pinEdge := .ofCode v }
  | .timerDivider => { c with timerDivider := v }
  | .captureLow => { c with captureSet := setLow c.captureSet v }
  | .captureHigh => { c with captureSet := setHigh c.captureSet v }
  | .eventLow => { c with eventSet := setLow c.eventSet v }
  | .eventHigh => { c with eventSet := setHigh c.eventSet v }

/-- A setting's byte as it reads on the settings page and is saved (11.3.4, 11.5). -/
def LiveConfig.byte (c : LiveConfig) (g : Global) : Byte :=
  match g with
  | .bitRate => c.bitRate.setWidth 8 ||| Byte.bit c.autoStart 7
  | .period => c.period
  | .timeout => c.timeout
  | .allowance => c.allowance
  | .staleLimit => c.staleLimit
  | .suspectLimit => c.suspectLimit
  | .firstQuick => c.firstQuick
  | .rejoinQuick => c.rejoinQuick
  | .backoff => c.backoffCode
  | .lockout => c.lockoutRounds
  | .roles =>
    c.roles.a.code.setWidth 8 ||| (c.roles.b.code.setWidth 8 <<< 2) ||| (c.roles.c.code.setWidth 8 <<< 4)
  | .linkstat => Byte.bit c.linkstatHealth 0 ||| Byte.bit c.linkstatInvert 1 ||| Byte.bit c.linkstatFault 2
  | .pinEdge => c.pinEdge.code
  | .timerDivider => c.timerDivider
  | .captureLow => Half.low c.captureSet
  | .captureHigh => Half.high c.captureSet
  | .eventLow => Half.low c.eventSet
  | .eventHigh => Half.high c.eventSet

/-- The bytes of a slot's configuration page and slot block (11.3.2, 11.5). -/
inductive ConfigField where
  | address | options | classLow | classHigh | inputLength | outputLength | pollDivider
  | safe (k : Fin 16)
  deriving DecidableEq, Repr

/-- The field at an offset of a slot's configuration page or slot block; +0x07 and +0x18 onward hold none. -/
def ConfigField.at (off : Nat) : Option ConfigField :=
  match off with
  | 0 => some .address
  | 1 => some .options
  | 2 => some .classLow
  | 3 => some .classHigh
  | 4 => some .inputLength
  | 5 => some .outputLength
  | 6 => some .pollDivider
  | 7 => none
  | n => if h : n - 8 < 16 then some (.safe ⟨n - 8, h⟩) else none

/-- The fields of a slot's configuration. -/
def ConfigField.all : List ConfigField := (List.range 24).filterMap ConfigField.at

/-- Whether a byte lies in the range of its field, at a write (R35) and at the load (R167). -/
def ConfigField.inRange (f : ConfigField) (v : Byte) : Bool :=
  match f with
  | .address => v.toNat ≤ Config.maxAddress
  | .options => true
  | .classLow => true
  | .classHigh => true
  | .inputLength => v.toNat ≤ 16
  | .outputLength => v.toNat ≤ 16
  | .pollDivider => 1 ≤ v.toNat && v.toNat ≤ 8
  | .safe _ => true

/-- A field takes a byte that is in range; the upper four option bits are ignored (R35). -/
def SlotConfig.put (c : SlotConfig) (f : ConfigField) (v : Byte) : SlotConfig :=
  match f with
  | .address => { c with address := v }
  | .options =>
    { c with
      enableAtStart := v.getLsbD 0
      errLatch := v.getLsbD 1
      errSafe := v.getLsbD 2
      releaseSafe := v.getLsbD 3 }
  | .classLow => { c with expectedClass := setLow c.expectedClass v }
  | .classHigh => { c with expectedClass := setHigh c.expectedClass v }
  | .inputLength => { c with inputLength := v }
  | .outputLength => { c with outputLength := v }
  | .pollDivider => { c with pollDivider := v }
  | .safe k => { c with safeOutput := setByte c.safeOutput k v }

/-- A field's byte as it reads on the configuration page and is saved. -/
def SlotConfig.byte (c : SlotConfig) (f : ConfigField) : Byte :=
  match f with
  | .address => c.address
  | .options =>
    Byte.bit c.enableAtStart 0 ||| Byte.bit c.errLatch 1 ||| Byte.bit c.errSafe 2 ||| Byte.bit c.releaseSafe 3
  | .classLow => c.expectedClass.low
  | .classHigh => c.expectedClass.high
  | .inputLength => c.inputLength
  | .outputLength => c.outputLength
  | .pollDivider => c.pollDivider
  | .safe k => c.safeOutput[k]

/-- The 32 bytes of a slot block (11.5); +0x07 and +0x18 to +0x1F hold 0. -/
def SlotConfig.block (c : SlotConfig) : List Byte :=
  (List.range 32).map fun off =>
    match ConfigField.at off with
    | some f => c.byte f
    | none => 0

/-- The first cell of slot `i`'s block (R164). -/
def blockCell (i : Fin 16) : Nat := 0x040 + 32 * i.val

namespace State

/-- Cells 0x000 to 0x3FD of the image of the live configuration as it stands (R164, R171). -/
def imageBody (s : State) : List Byte :=
  [Config.validation0, Config.validation1, 1] ++ Global.all.map s.config.byte ++ List.replicate (0x040 - 0x015) 0 ++
    (allSlots.flatMap fun i => (s.slot i).config.block) ++ List.replicate (0x3FE - 0x240) 0

/-- The save image (R164, R171): the body and its CRC, high byte first. -/
def saveImage (s : State) : List Byte :=
  let body := s.imageBody
  body ++ [(crc body).high, (crc body).low]

end State

/-- The bytes of a global setting in an image: cell 0x003 onward (R164). -/
def imageGlobals (image : List Byte) : List (Global × Byte) := Global.all.zip (image.drop 0x003)

/-- The bytes of slot `i`'s configuration fields in an image (R164). -/
def imageFields (image : List Byte) (i : Fin 16) : List (ConfigField × Byte) :=
  ((image.drop (blockCell i)).take 24).zipIdx.filterMap fun x =>
    match ConfigField.at x.2 with
    | some f => some (f, x.1)
    | none => none

/-- Whether the image read from the cells is accepted (R167): validation word, CRC, format version, ranges. -/
def imageAccepted (image : List Byte) : Bool :=
  image.getD 0 0 = Config.validation0 && image.getD 1 0 = Config.validation1 &&
    crc (image.take 0x3FE) = Half.ofBytes (image.getD 0x3FE 0) (image.getD 0x3FF 0) &&
    image.getD 2 0 = 1 &&
    ((imageGlobals image).all fun x => x.1.inRange x.2) &&
    allSlots.all fun i => (imageFields image i).all fun x => x.1.inRange x.2

/-- The global settings of an accepted image (R168). -/
def imageConfig (image : List Byte) : LiveConfig :=
  (imageGlobals image).foldl (fun c x => c.put x.1 x.2) .default

/-- A slot's configuration in an accepted image (R168). -/
def imageSlot (image : List Byte) (i : Fin 16) : SlotConfig :=
  (imageFields image i).foldl (fun c x => c.put x.1 x.2) .default

/-- The roles in force for a loaded roles byte: Port C is SUPERVISE if no port is (R142). -/
def forcedRoles (r : PerPort Role) : PerPort Role :=
  if r.a = .supervise ∨ r.b = .supervise ∨ r.c = .supervise then r else { r with c := .supervise }

namespace State

/-- The cells as they read, in order of address (R167). -/
def cellBytes (s : State) : List Byte := Memory.expand Config.storeSize 0 s.store.cells

/-- The live configuration loaded, all or nothing (R168): from an accepted image, or the defaults. -/
def loadConfig (s : State) : State :=
  let image := s.cellBytes
  let t := { s with slots := Vector.ofFn fun i : Fin 16 =>
    { s.slot i with config := if imageAccepted image then imageSlot image i else .default } }
  if imageAccepted image then
    { t with config := imageConfig image, store := { s.store with state := .valid } }
  else { t with config := .default, store := { s.store with state := .defaulted } }

/-- A write to a global setting that only a SUPERVISE port may make, and only where `allowed` holds (R2, R3, R19, R20, R37,
R116, R161, R170): a value out of range, another role or a closed setting is ignored with ACCESS_REFUSED. -/
def writeGlobal (s : State) (p : Port) (g : Global) (allowed : Bool) (v : Byte) : State :=
  if s.role p = .supervise ∧ allowed = true ∧ g.inRange v = true then { s with config := s.config.put g v }
  else s.refuse p

/-- A write to a byte of slot `i`'s configuration (R35): SUPERVISE, a DISABLED slot, a value in range. -/
def writeSlotConfig (s : State) (p : Port) (i : Fin 16) (f : ConfigField) (v : Byte) : State :=
  if s.role p = .supervise ∧ (s.slot i).health.state = .disabled ∧ f.inRange v = true then
    s.modSlot i fun x => { x with config := x.config.put f v }
  else s.refuse p

end State

end Sys2Proof.Machine
end

