-- ==== Sys2Proof/Machine/CommandSlots.lean ====
section
/-! DEFINITION. The command slots of the ports: taking a CMD write, results, completion (8.7). -/

namespace Sys2Proof.Machine

/-- Result codes (8.7). -/
def Result.code (r : Result) : Byte :=
  match r with
  | .none => 0
  | .done => 1
  | .inProgress => 2
  | .refusedRole => 3
  | .refusedState => 4
  | .badArg => 5
  | .refusedOwned => 6
  | .notOwner => 7
  | .empty => 8
  | .busy => 9
  | .failedVerify => 10
  | .unknownCommand => 11

/-- RES_DETAIL of BAD_ARG for a slot index above 15 or a window number above 3 (R147). -/
def badIndex : Byte := 0xF0

/-- The code of LINK_STOP (8.7). -/
def linkStopCode : Byte := 0x0F

/-- The code of SAVE_CONFIG (8.7). -/
def saveConfigCode : Byte := 0x10

/-- The code of PORT_CLEAR (8.7). -/
def portClearCode : Byte := 0x0D

/-- What a command's owner answers: its state, the result and RES_DETAIL (R146). -/
structure Answer where
  state  : State
  result : Result
  detail : Byte
  deriving DecidableEq, Repr

/-- The slot takes a command's result; IN_PROGRESS leaves it IN_PROGRESS, any other leaves it IDLE (R146). -/
def CommandSlot.give (r : Result) (detail : Byte) (c : CommandSlot) : CommandSlot :=
  { c with result := r, detail := detail, inProgress := r = .inProgress }

namespace State

/-- Port `p`'s command slot (R146). -/
def command (s : State) (p : Port) : CommandSlot := (s.port p).command

/-- Port `p`'s command slot changed. -/
def modCommand (s : State) (p : Port) (f : CommandSlot → CommandSlot) : State :=
  s.modPort p fun c => { c with command := f c.command }

/-- A CMD write other than PORT_CLEAR (R146, R148): while the slot is IN_PROGRESS it is refused with CMD_OVERRUN;
otherwise CMD takes the code and the owner's answer is written at the same event. -/
def issue (s : State) (p : Port) (code : Byte) (owner : State → Answer) : State :=
  if (s.command p).inProgress then s.modPort p fun c => { c with cmdOverrun := true }
  else
    let a := owner (s.modCommand p fun c => { c with code := code })
    a.state.modCommand p (·.give a.result a.detail)

/-- Completion of a command left IN_PROGRESS (R149): if the slot is still IN_PROGRESS for that command, it takes the
final result and CMD_DONE is set. -/
def complete (s : State) (p : Port) (code : Byte) (r : Result) (detail : Byte) : State :=
  if (s.command p).inProgress && (s.command p).code = code then
    (s.modCommand p (·.give r detail)).raise .cmdDone p
  else s

end State

end Sys2Proof.Machine
end

