-- ==== Sys2Proof/Machine/CaptureUnit.lean ====
section
/-! DEFINITION. The capture unit: captures, the ring, subscriptions and reclaim (07). -/

namespace Sys2Proof.Machine

/-- What became of a capture request (R121, R123), codes 0 to 2. -/
inductive CaptureFate where
  | recorded | lost | dropped
  deriving DecidableEq, Repr

/-- CAPTURE_NOW's RES_DETAIL (R121). -/
def CaptureFate.code (f : CaptureFate) : Byte :=
  match f with
  | .recorded => 0
  | .lost => 1
  | .dropped => 2

/-- Source kind codes (7.2). -/
def Source.code (x : Source) : Byte :=
  match x with
  | .pin => 0
  | .timer => 1
  | .station _ => 2
  | .command _ => 3

/-- Source details (7.2): the slot of a STATION capture, the port of a COMMAND capture. -/
def Source.detail (x : Source) : Byte :=
  match x with
  | .pin => 0
  | .timer => 0
  | .station s => BitVec.ofNat 8 s.val
  | .command p => p.code

/-- Records unread by a port (R125): 0 when it is not subscribed. -/
def PortContext.unread (c : PortContext) : Nat :=
  match c.cursor with
  | none => 0
  | some k => k.unread

/-- An appended record is unread by every subscribed port (R124, R125). -/
def PortContext.append (c : PortContext) : PortContext :=
  { c with cursor := c.cursor.map fun k => { k with unread := k.unread + 1 } }

namespace State

/-- Some port is subscribed. -/
def subscribed (s : State) : Bool :=
  s.ports.a.cursor.isSome || s.ports.b.cursor.isSome || s.ports.c.cursor.isSome

/-- A whole copy of slot `i`'s live input record, with the length as it stands (R61, R75, R122). -/
def copyRecord (s : State) (i : Fin 16) : RecordCopy :=
  let r := (s.slot i).input
  ⟨i, r.state, r.err, r.warn, r.evt, r.generation, r.age, (s.slot i).config.inputLength, r.data⟩

/-- The entries of a capture taken now: the slots of the capture slot set, lowest first (R122). -/
def captureEntries (s : State) : List RecordCopy :=
  (allSlots.filter fun i => marked s.config.captureSet i).map s.copyRecord

/-- What becomes of a capture request made now (R123). -/
def captureFate (s : State) : CaptureFate :=
  if !s.subscribed then .dropped
  else if s.capture.ring.length ≥ Config.ringDepth then .lost
  else .recorded

/-- A capture request, from whatever source, handled at its event (R123). -/
def takeCapture (s : State) (x : Source) : State :=
  match s.captureFate with
  | .dropped => s
  | .lost =>
    { s.modPorts (fun c => if c.cursor.isSome then c.raise .captureLost else c) with
      capture := { s.capture with sequence := s.capture.sequence + 1, lost := saturate s.capture.lost } }
  | .recorded =>
    { s.modPorts (·.append) with
      capture :=
        { ring := s.capture.ring ++ [⟨s.capture.sequence, x, s.sched.cycle, s.capture.lost, s.captureEntries⟩]
          sequence := s.capture.sequence + 1
          lost := 0 } }

/-- The record at a port's cursor (R125): the oldest of the port's unread records. -/
def recordAt (s : State) (p : Port) : Option CaptureRecord :=
  if 0 < (s.port p).unread then s.capture.ring[s.capture.ring.length - (s.port p).unread]? else none

/-- The most records any port has unread: the length of the run at the newest end that some port still reads. -/
def mostUnread (s : State) : Nat := max s.ports.a.unread (max s.ports.b.unread s.ports.c.unread)

/-- Reclaim (R132): the oldest records that no subscribed port has unread are freed; with no subscriber the ring is
emptied and the lost counter set to 0. -/
def reclaim (s : State) : State :=
  { s with
    capture :=
      { s.capture with
        ring := s.capture.ring.drop (s.capture.ring.length - s.mostUnread)
        lost := if s.subscribed then s.capture.lost else 0 } }

/-- SUBSCRIBE's effect (R126): a cursor at the next capture, unless the port has one. -/
def subscribe (s : State) (p : Port) : State :=
  if (s.port p).cursor.isSome then s else s.modPort p fun c => { c with cursor := some ⟨s.capture.sequence, 0⟩ }

/-- The end of a subscription (R127, R134): the cursor is removed and records are reclaimed. -/
def unsubscribe (s : State) (p : Port) : State :=
  if (s.port p).cursor.isSome then (s.modPort p fun c => { c with cursor := none }).reclaim else s

/-- ADVANCE past a record (R128): the cursor is set to its sequence number plus one, and records are reclaimed. -/
def advancePast (s : State) (p : Port) (r : CaptureRecord) : State :=
  (s.modPort p fun c => { c with cursor := some ⟨r.sequence + 1, c.unread - 1⟩ }).reclaim

end State

/-- Input record state codes (11.2). -/
def RecordState.code (x : RecordState) : Byte :=
  match x with
  | .never => 0
  | .fresh => 1
  | .stale => 2
  | .lost => 3

/-- Input record flags (11.2). -/
def RecordCopy.flags (r : RecordCopy) : Byte := Byte.bit r.err 0 ||| Byte.bit r.warn 1 ||| Byte.bit r.evt 2

/-- The 22 bytes of a capture entry (11.3.3). -/
def RecordCopy.entryBytes (r : RecordCopy) : List Byte :=
  [BitVec.ofNat 8 r.slot.val, r.state.code, r.flags, r.generation, r.age, r.length] ++ r.data.toList

/-- The bytes of the capture read area that show a record (11.3.3): the valid byte, the header and the entries. -/
def CaptureRecord.areaBytes (r : CaptureRecord) : List Byte :=
  [1, r.sequence.low, r.sequence.high, r.source.code, r.source.detail, r.cycle.low, r.cycle.high, r.lostBefore,
    BitVec.ofNat 8 r.entries.length] ++ r.entries.flatMap (·.entryBytes)

/-- Byte `off` of the capture read area as port `p` reads it (R129): 0 past the last entry, and 0 with no record. -/
def State.captureAreaByte (s : State) (p : Port) (off : Nat) : Byte :=
  match s.recordAt p with
  | none => 0
  | some r => r.areaBytes.getD off 0

/-- Byte `off` of the capture status page as port `p` reads it (R131, 11.3.5). -/
def State.captureStatusByte (s : State) (p : Port) (off : Nat) : Byte :=
  match off with
  | 0 =>
    Byte.bit s.ports.a.cursor.isSome 0 ||| Byte.bit s.ports.b.cursor.isSome 1 ||| Byte.bit s.ports.c.cursor.isSome 2
  | 1 => BitVec.ofNat 8 s.capture.ring.length
  | 2 => s.capture.sequence.low
  | 3 => s.capture.sequence.high
  | 4 => s.capture.lost
  | 5 => BitVec.ofNat 8 (s.port p).unread
  | _ => 0

end Sys2Proof.Machine
end

