-- ==== Sys2Proof/Machine/WindowUnit.lean ====
section
/-! DEFINITION. The remote windows, the request queue and the record out at the link engine (06). -/

namespace Sys2Proof.Machine

/-- A window is busy while it is QUEUED, IN_FLIGHT or CANCELLING (6.1). -/
def WindowState.busy (w : WindowState) : Bool := w = .queued || w = .inFlight || w = .cancelling

/-- Window state codes (11.1). -/
def WindowState.code (w : WindowState) : Byte :=
  match w with
  | .idle => 0
  | .queued => 1
  | .inFlight => 2
  | .cancelling => 3
  | .done => 4
  | .failed => 5

/-- Cause codes (R97). -/
def Cause.code (c : Cause) : Byte :=
  match c with
  | .none => 0
  | .link .noReply => 1
  | .link .badCheck => 2
  | .link .badEcho => 3
  | .link .badLength => 4
  | .rejected => 5
  | .busy => 6
  | .slotLeft => 7
  | .linkStopped => 8
  | .cancelled => 9
  | .role => 10
  | .notOwner => 11
  | .notActive => 12
  | .queueFull => 13

/-- Entry into FAILED: both the cause and the detail are set (R97); the descriptor, the buffers and OVERRUN are kept
(R179). -/
def Window.fail (c : Cause) (detail : Byte) (w : Window) : Window :=
  { w with state := .failed, cause := c, detail := detail }

/-- Entry into QUEUED, IN_FLIGHT, DONE or IDLE: cause NONE and detail 0 (R97). -/
def Window.enter (x : WindowState) (w : Window) : Window := { w with state := x, cause := .none, detail := 0 }

/-- Port clear of a window (R115): everything starts afresh, but a window whose record is out becomes CANCELLING with
its clear mark set. -/
def Window.portClear (w : Window) : Window :=
  if w.state = .inFlight || w.state = .cancelling then { Window.reset with state := .cancelling, clearMark := true }
  else Window.reset

/-- The slot is ACTIVE or SUSPECT. -/
def HealthState.linked (h : HealthState) : Bool := h = .active || h = .suspect

namespace State

/-- A window set to FAILED, with WINDOW_DONE in its port (R97, R98). -/
def failWindow (s : State) (p : Port) (w : Fin 4) (c : Cause) (detail : Byte) : State :=
  (s.modWindow p w (·.fail c detail)).raise .windowDone p

/-- A window set to DONE, with WINDOW_DONE in its port (R98, R107). -/
def finishWindow (s : State) (p : Port) (w : Fin 4) : State :=
  (s.modWindow p w (·.enter .done)).raise .windowDone p

/-- The records that `gone` picks leave the queue, the others keep their order, and each removed record's window is set
to FAILED (R103, R110, R111). -/
def removeRequests (s : State) (gone : Request → Bool) (c : Cause) : State :=
  (s.queue.filter gone).foldl (fun t r => t.failWindow r.port r.window c 0)
    { s with queue := s.queue.filter fun r => !gone r }

/-- Every record for a slot that has left ACTIVE or SUSPECT by loss, or has entered DISABLED, is removed (R110). -/
def slotLeft (s : State) (i : Fin 16) : State := s.removeRequests (fun r => r.slot = i) .slotLeft

/-- A window in CANCELLING ends (R106, R113): FAILED(CANCELLED), or IDLE without a flag when its port was cleared. -/
def endCancelling (s : State) (p : Port) (w : Fin 4) : State :=
  if (s.window p w).clearMark then s.modWindow p w fun x => { x.enter .idle with clearMark := false }
  else s.failWindow p w .cancelled 0

/-- The record out is withdrawn before it began, or its report comes under the discard mark (R106): the window ends
with `c` unless it was cancelled or its port cleared, and the record is dropped. -/
def dropOut (s : State) (c : Cause) : State :=
  match s.out with
  | none => s
  | some r =>
    let t := { s with out := none }
    match (t.window r.port r.window).state with
    | .inFlight => t.failWindow r.port r.window c 0
    | .cancelling => t.endCancelling r.port r.window
    | .idle | .queued | .done | .failed => t

/-- A BUSY reply to an IN_FLIGHT window (R108): the request fails at the third BUSY, fails when its slot has left or the
queue is full, and otherwise rejoins the queue at its tail. -/
def rejoin (s : State) (r : Request) : State :=
  if r.busy + 1 ≥ Config.busyLimit then s.failWindow r.port r.window .busy 0
  else if !(s.slot r.slot).health.state.linked then s.failWindow r.port r.window .slotLeft 0
  else if s.queue.length ≥ Config.queueDepth then s.failWindow r.port r.window .queueFull 0
  else { s.modWindow r.port r.window (·.enter .queued) with queue := s.queue ++ [{ r with busy := r.busy + 1 }] }

/-- The four data bytes of a READ reply, given its payload (R9). -/
def replyData (payload : List Byte) : Bytes4 :=
  Vector.ofFn fun k : Fin 4 => payload.getD (k.val + 1) 0

/-- A good reply applied to an IN_FLIGHT window (R107): BUSY, then a non-zero result, then result 0. -/
def goodReply (s : State) (r : Request) (busy : Bool) (payload : List Byte) : State :=
  if busy then s.rejoin r
  else if payload.getD 0 0 ≠ 0 then s.failWindow r.port r.window .rejected (payload.getD 0 0)
  else
    match r.kind with
    | .read => (s.modWindow r.port r.window fun w => { w with result := replyData payload }).finishWindow r.port r.window
    | .write _ => s.finishWindow r.port r.window

/-- One request joins the queue for a window (R102): the record is frozen, the window enters QUEUED, and STEP advances
the descriptor's address by 4. -/
def enqueue (s : State) (p : Port) (w : Fin 4) (k : RequestKind) : State :=
  let x := s.window p w
  let t := s.modWindow p w fun y =>
    { y.enter .queued with address := if y.step then y.address + 4 else y.address }
  { t with queue := s.queue ++ [⟨p, w, x.slot, k, x.address, 0⟩] }

/-- The checks of health and room that end both triggers (R100, R101), and the request where they pass. -/
def triggerAccept (s : State) (p : Port) (w : Fin 4) (k : RequestKind) : State :=
  if !(s.slot (s.window p w).slot).health.state.linked then s.failWindow p w .notActive 0
  else if s.queue.length ≥ Config.queueDepth then s.failWindow p w .queueFull 0
  else s.enqueue p w k

/-- A WRITE trigger of window `w` (R100), after the byte has been stored. -/
def writeTrigger (s : State) (p : Port) (w : Fin 4) : State :=
  let x := s.window p w
  let owner := (s.slot x.slot).owner
  if x.state.busy then s.modWindow p w fun y => { y with overrun := true }
  else if s.role p = .observe then s.failWindow p w .role 0
  else if owner ≠ none ∧ owner ≠ some p ∧ s.role p ≠ .supervise then s.failWindow p w .notOwner 0
  else s.triggerAccept p w (.write x.assembly)

/-- A FETCH trigger of window `w` (R101), after the read. -/
def fetchTrigger (s : State) (p : Port) (w : Fin 4) : State :=
  if (s.window p w).state.busy then s.modWindow p w fun y => { y with overrun := true }
  else s.triggerAccept p w .read

/-- A store to data byte `k` of a window (R99): into the assembly buffer, and a WRITE trigger where byte `k` is marked
in WRITE mode. -/
def storeDataByte (s : State) (p : Port) (w : Fin 4) (k : Fin 4) (v : Byte) : State :=
  let t := s.modWindow p w fun x => { x with assembly := setByte x.assembly k v }
  if !(s.window p w).fetch && (s.window p w).mask.getLsbD k.val then t.writeTrigger p w else t

/-- A read of data byte `k` of a window (R99): a FETCH trigger where `k` is 0 in FETCH mode. -/
def readDataByte (s : State) (p : Port) (w : Fin 4) (k : Fin 4) : State :=
  if (s.window p w).fetch && k = 0 then s.fetchTrigger p w else s

/-- CANCEL's effect on window `w` (R112). -/
def cancelWindow (s : State) (p : Port) (w : Fin 4) : State :=
  match (s.window p w).state with
  | .queued =>
    { s with queue := s.queue.filter fun r => !(r.port = p && r.window = w) }.failWindow p w .cancelled 0
  | .inFlight => s.modWindow p w (·.enter .cancelling)
  | .cancelling | .idle | .done | .failed => s

/-- Port clear at the window unit (R115): no WINDOW_DONE is set. -/
def clearWindows (s : State) (p : Port) : State :=
  { s.modPort p fun c => { c with windows := Vector.ofFn fun w : Fin 4 => c.windows[w].portClear } with
    queue := s.queue.filter fun r => r.port ≠ p }

end State

end Sys2Proof.Machine
end

