-- ==== Sys2Proof/Machine/SlotTable.lean ====
section
/-! DEFINITION. The slot table: the health machine (03). -/

namespace Sys2Proof.Machine

/-- Health state codes (3.3). -/
def HealthState.code (h : HealthState) : Byte :=
  match h with
  | .disabled => 0
  | .probing => 1
  | .active => 2
  | .suspect => 3
  | .backoff => 4
  | .lockedOut => 5

/-- Lock cause codes (3.3). -/
def LockCause.code (c : LockCause) : Byte :=
  match c with
  | .none => 0
  | .noResponse => 1
  | .wrongClass => 2
  | .wrongShape => 3

/-- Last failure cause codes (3.3). -/
def failureCode (f : Option LinkFailure) : Byte :=
  match f with
  | none => 0
  | some .noReply => 1
  | some .badCheck => 2
  | some .badEcho => 3
  | some .badLength => 4

/-- The contents of a reply that ended in SUCCESS (R16). -/
structure Reply where
  err     : Bool
  warn    : Bool
  evt     : Bool
  busy    : Bool
  payload : List Byte
  deriving DecidableEq, Repr

/-- The outcome of an exchange (1.5) with what its report carries (R16). -/
inductive Decision where
  | success (r : Reply)
  | failed (f : LinkFailure)
  deriving DecidableEq, Repr

/-- The long backoff in cycle ends (3.2): the written code times 8. -/
def LiveConfig.longBackoff (c : LiveConfig) : Nat := c.backoffCode.toNat * 8

/-- The quick count that ends a round of this kind (3.6, R38). -/
def LiveConfig.quickCount (c : LiveConfig) (k : RoundKind) : Nat :=
  match k with
  | .first => c.firstQuick.toNat
  | .rejoin => c.rejoinQuick.toNat

/-- The class of an IDENT reply (R9). -/
def identClass (payload : List Byte) : Half := Half.ofBytes (payload.getD 0 0) (payload.getD 1 0)

/-- A good IDENT applied to a PROBING slot (R45): class, then shape, then ACTIVE. -/
def Health.goodIdent (cfg : SlotConfig) (payload : List Byte) (h : Health) : Health :=
  let g := { h with reportedClass := identClass payload, reportedRevision := payload.getD 2 0 }
  if cfg.expectedClass ≠ 0 ∧ identClass payload ≠ cfg.expectedClass then
    { g with state := .lockedOut, lockCause := .wrongClass }
  else if payload.getD 3 0 ≠ cfg.inputLength ∨ payload.getD 4 0 ≠ cfg.outputLength then
    { g with state := .lockedOut, lockCause := .wrongShape }
  else { g with state := .active, consecutive := 0, rounds := 0, quick := 0 }

/-- A probe round that ends without success (R47). -/
def Health.roundEnd (c : LiveConfig) (h : Health) : Health :=
  let rounds := if h.rounds < 7 then h.rounds + 1 else h.rounds
  if c.lockoutRounds ≠ 0 ∧ rounds ≥ c.lockoutRounds.toNat then
    { h with rounds := rounds, state := .lockedOut, lockCause := .noResponse }
  else { h with rounds := rounds, state := .backoff, backoff := c.longBackoff, round := .rejoin, quick := 0 }

/-- A failed IDENT applied to a PROBING slot (R46). -/
def Health.failedIdent (c : LiveConfig) (h : Health) : Health :=
  let g := { h with quick := h.quick + 1 }
  if h.quick + 1 < c.quickCount h.round then g else g.roundEnd c

/-- Loss of a slot (R51). -/
def Health.lose (c : LiveConfig) (h : Health) : Health :=
  { h with
    lossCount := saturate h.lossCount
    state := .backoff
    backoff := c.longBackoff
    round := .rejoin
    rounds := 0
    quick := 0
    consecutive := 0 }

/-- A failure applied to an ACTIVE slot (R49). -/
def Health.activeFailure (c : LiveConfig) (h : Health) : Health :=
  if c.suspectLimit.toNat ≤ 1 then h.lose c else { h with state := .suspect, consecutive := 1 }

/-- A failure applied to a SUSPECT slot (R50). -/
def Health.suspectFailure (c : LiveConfig) (h : Health) : Health :=
  if h.consecutive + 1 < c.suspectLimit.toNat then { h with consecutive := h.consecutive + 1 } else h.lose c

/-- A good report applied by health state (R45, R48 to R50), after the good count (R41). R48: an IDENT report acts only
on a PROBING slot, every other report only on an ACTIVE or SUSPECT one. -/
def Health.good (cfg : SlotConfig) (k : Kind) (payload : List Byte) (h : Health) : Health :=
  let g := { h with goodCount := h.goodCount + 1 }
  match h.state with
  | .probing => if k = .ident then g.goodIdent cfg payload else g
  | .suspect => if k = .ident then g else { g with state := .active, consecutive := 0 }
  | .disabled | .active | .backoff | .lockedOut => g

/-- A failure applied by health state (R46, R48 to R50), after the failure count and the last failure cause (R41). -/
def Health.failure (c : LiveConfig) (k : Kind) (f : LinkFailure) (h : Health) : Health :=
  let g := { h with failureCount := saturate h.failureCount, lastFailure := some f }
  match h.state with
  | .probing => if k = .ident then g.failedIdent c else g
  | .active => if k = .ident then g else g.activeFailure c
  | .suspect => if k = .ident then g else g.suspectFailure c
  | .disabled | .backoff | .lockedOut => g

/-- A report applied to a slot's health part; a report for a DISABLED slot is discarded (R41). -/
def Health.report (cfg : SlotConfig) (c : LiveConfig) (k : Kind) (d : Decision) (h : Health) : Health :=
  if h.state = .disabled then h
  else
    match d with
    | .success r => h.good cfg k r.payload
    | .failed f => h.failure c k f

/-- An accepted enable (R43). -/
def Health.enable : Health := { Health.reset with state := .probing }

/-- RESTART of a LOCKED_OUT slot (R53). -/
def Health.restart (h : Health) : Health :=
  { h with state := .probing, round := .first, rounds := 0, quick := 0, lockCause := .none }

/-- DISABLE of a slot (R54): the counts and causes are kept for reading. -/
def Health.disable (h : Health) : Health :=
  { h with state := .disabled, round := .first, quick := 0, rounds := 0, consecutive := 0, backoff := 0 }

/-- The link's entry into STOPPED (R56): DISABLED and LOCKED_OUT slots are not changed. -/
def Health.stop (h : Health) : Health :=
  match h.state with
  | .active | .suspect | .probing | .backoff =>
    { h with state := .probing, round := .first, quick := 0, rounds := 0, consecutive := 0, backoff := 0 }
  | .disabled | .lockedOut => h

/-- A cycle end (R52): a BACKOFF slot counts down, and at 0 enters PROBING with its round kind. -/
def Health.cycleEnd (h : Health) : Health :=
  if h.state = .backoff then
    if h.backoff ≤ 1 then { h with state := .probing, backoff := 0, quick := 0 } else { h with backoff := h.backoff - 1 }
  else h

/-- A LOST record keeps every other field (R69). -/
def InputRecord.lose (r : InputRecord) : InputRecord := { r with state := .lost }

/-- The link's entry into STOPPED (R70): FRESH and STALE become LOST, every update mark is cleared. -/
def InputRecord.stop (r : InputRecord) : InputRecord :=
  { r with state := if r.state = .fresh ∨ r.state = .stale then .lost else r.state, updated := false }

/-- The enable of a slot: its health part (R43), its input record and its outputs (R67). -/
def Slot.enable (x : Slot) : Slot :=
  { x with health := .enable, input := .reset, output := ⟨x.config.safeOutput, 0⟩ }

/-- The disable of a slot: its health part (R54) and its input record (R68). -/
def Slot.disable (x : Slot) : Slot := { x with health := x.health.disable, input := .reset }

/-- A loss by this change of health: ACTIVE or SUSPECT to BACKOFF (R40, R51). -/
def lossBy (before after : Health) : Bool := before.state.linked && after.state = .backoff

namespace State

/-- A slot changed together with its health part: a change of health state sets SLOT_CHANGE in every port (R40). -/
def changeSlot (s : State) (i : Fin 16) (f : Slot → Slot) : State :=
  let t := s.modSlot i f
  if (t.slot i).health.state = (s.slot i).health.state then t else t.raiseAll .slotChange

/-- Every slot changed alike, with SLOT_CHANGE in every port when any health state changes (R40). -/
def changeSlots (s : State) (f : Slot → Slot) : State :=
  let t := s.modSlots f
  if allSlots.all fun i => (t.slot i).health.state = (s.slot i).health.state then t else t.raiseAll .slotChange

/-- A report applied as evidence of slot `i`'s link health (R41), with what a loss brings (R51, R69, R110). -/
def healthEvidence (s : State) (i : Fin 16) (k : Kind) (d : Decision) : State :=
  let x := s.slot i
  let h := x.health.report x.config s.config k d
  if lossBy x.health h then (s.changeSlot i fun y => { y with health := h, input := y.input.lose }).slotLeft i
  else s.changeSlot i fun y => { y with health := h }

/-- The station address of slot `i` is 1 to 62 (R43). -/
def addressValid (s : State) (i : Fin 16) : Bool :=
  1 ≤ (s.slot i).config.address.toNat && (s.slot i).config.address.toNat ≤ Config.maxAddress

/-- The other slot, not DISABLED, that holds slot `i`'s station address, if there is one (R43, R44). -/
def addressHolder (s : State) (i : Fin 16) : Option (Fin 16) :=
  allSlots.find? fun j =>
    j ≠ i && (s.slot j).health.state ≠ .disabled && (s.slot j).config.address = (s.slot i).config.address

/-- The start-up enable of slot `i` (R58): marked, with a valid address no slot enabled before it holds. -/
def startUpEnable (s : State) (i : Fin 16) : State :=
  if (s.slot i).config.enableAtStart && s.addressValid i && (s.addressHolder i).isNone then s.changeSlot i (·.enable)
  else s

end State

end Sys2Proof.Machine
end

