-- ==== Sys2Proof/Machine/ProcessImage.lean ====
section
/-! DEFINITION. The process image: input records, output records and read snapshots (04). -/

namespace Sys2Proof.Machine

/-- The input bytes of a reply as record data (R63): bytes from the length up to 15 are 0. -/
def inputData (length : Nat) (payload : List Byte) : Bytes16 :=
  Vector.ofFn fun k : Fin 16 => if k.val < length then payload.getD k.val 0 else 0

/-- A good cyclic reply applied to an input record (R63, R64): ERR keeps a latched value when the latch is on. -/
def InputRecord.apply (cfg : SlotConfig) (r : Reply) (x : InputRecord) : InputRecord where
  state := .fresh
  err := r.err || (cfg.errLatch && x.err)
  warn := r.warn
  evt := r.evt
  generation := x.generation + 1
  age := 0
  data := inputData cfg.inputLength.toNat r.payload
  updated := true

/-- The state a FRESH or STALE record is given at a cycle end (R66). -/
def derivedState (x : RecordState) (age limit : Byte) : RecordState :=
  match x with
  | .fresh | .stale => if age ≤ limit then .fresh else .stale
  | .never => .never
  | .lost => .lost

/-- Ageing of an input record at a cycle end (R66). -/
def InputRecord.cycleEnd (limit : Byte) (x : InputRecord) : InputRecord :=
  let age := if x.state ≠ .never ∧ x.updated = false then saturate x.age else x.age
  { x with age := age, state := derivedState x.state age limit, updated := false }

/-- The output bytes a CYCLIC request carries (R74): the safe output under ERR action SAFE while ERR is set. -/
def Slot.requestOutput (x : Slot) : List Byte :=
  (if x.config.errSafe && x.input.err then x.config.safeOutput else x.output.committed).toList.take
    x.config.outputLength.toNat

/-- A release policy SAFE load (R73, R84): the commit count is not changed. -/
def Slot.loadSafe (x : Slot) : Slot := { x with output := { x.output with committed := x.config.safeOutput } }

/-- A commit (R73): all 16 bytes, and the commit count. -/
def Slot.commit (bytes : Bytes16) (x : Slot) : Slot := { x with output := ⟨bytes, x.output.commitCount + 1⟩ }

/-- Byte `off` of an input record as it lies on the runtime page, +0x00 to +0x14 (11.3.1). Bytes at and beyond the
length read 0 (R61). -/
def RecordCopy.byte (r : RecordCopy) (off : Nat) : Byte :=
  match off with
  | 0 => r.state.code
  | 1 => r.flags
  | 2 => r.generation
  | 3 => r.age
  | 4 => r.length
  | n => if n - 5 < r.length.toNat then r.data.toList.getD (n - 5) 0 else 0

namespace State

/-- A CYCLIC report with SUCCESS at the process image (R63, R65): applied while the slot is ACTIVE or SUSPECT, and then
a STATION capture where the reply carries EVT and the slot is in the event-source set. -/
def applyCyclic (s : State) (i : Fin 16) (r : Reply) : State :=
  if (s.slot i).health.state.linked then
    let t := s.modSlot i fun x => { x with input := x.input.apply x.config r }
    if r.evt && marked s.config.eventSet i then t.takeCapture (.station i) else t
  else s

/-- The read of a state byte copies the whole record into the port's snapshot (R75). -/
def takeSnapshot (s : State) (p : Port) (i : Fin 16) : State :=
  s.modPort p fun c => { c with snapshot := some (s.copyRecord i) }

/-- The record a port's read of slot `i`'s other input-record bytes comes from (R76): its snapshot if that holds the
slot, the live record otherwise. -/
def seenRecord (s : State) (p : Port) (i : Fin 16) : RecordCopy :=
  match (s.port p).snapshot with
  | some r => if r.slot = i then r else s.copyRecord i
  | none => s.copyRecord i

/-- A read of output byte `k` of slot `i` (R72): the committed output, 0 at and beyond the output length. -/
def outputByte (s : State) (i : Fin 16) (k : Fin 16) : Byte :=
  if k.val < (s.slot i).config.outputLength.toNat then (s.slot i).output.committed[k] else 0

end State

end Sys2Proof.Machine
end

