-- ==== Sys2Proof/Machine/ClaimTable.lean ====
section
/-! DEFINITION. The claim table: owners, release policies, stages and commits (05). -/

namespace Sys2Proof.Machine

/-- An owner goes from a slot: the owner becomes none and the release policy is applied (R84). -/
def Slot.release (x : Slot) : Slot :=
  let y := { x with owner := none }
  if x.config.releaseSafe then y.loadSafe else y

/-- RES_DETAIL of a RELEASE or REVOKE that ended a claim (R83, R85): 1 for HOLD, 2 for SAFE. -/
def SlotConfig.releaseDetail (c : SlotConfig) : Byte := if c.releaseSafe then 2 else 1

namespace State

/-- A REVOKE's part in the former owner's port (R86): CLAIM_LOST, and a stage that holds the slot is discarded. -/
def claimLost (s : State) (p : Port) (i : Fin 16) : State :=
  (s.modPort p fun c =>
    match c.stage with
    | some g => if g.slot = i then { c with stage := none, stageDiscarded := true } else c
    | none => c).raise .claimLost p

/-- A write to output byte `k` of slot `i` (R87): role, range, load, write. -/
def stageByte (s : State) (p : Port) (i : Fin 16) (k : Fin 16) (v : Byte) : State :=
  if s.role p = .observe then s.refuse p
  else if k.val ≥ (s.slot i).config.outputLength.toNat then s.refuse p
  else
    let loaded := (s.slot i).output.committed
    s.modPort p fun c =>
      match c.stage with
      | none => { c with stage := some ⟨i, setByte loaded k v⟩ }
      | some g =>
        if g.slot = i then { c with stage := some ⟨i, setByte g.bytes k v⟩ }
        else { c with stage := some ⟨i, setByte loaded k v⟩, stageDiscarded := true }

/-- A port may commit to slot `i` (R89): it owns it, or it is SUPERVISE and no port owns it. -/
def mayCommit (s : State) (p : Port) (i : Fin 16) : Bool :=
  (s.slot i).owner = some p || ((s.slot i).owner = none && s.role p = .supervise)

/-- A write to slot `i`'s commit location, whatever the value (R89). -/
def commitStage (s : State) (p : Port) (i : Fin 16) : State :=
  match (s.port p).stage with
  | none => s
  | some g =>
    if g.slot = i then
      let t := s.modPort p fun c => { c with stage := none }
      if s.mayCommit p i then t.modSlot i (·.commit g.bytes) else t.refuse p
    else s

/-- Port clear at the claim table (R92): the port's claims are released, each under its slot's policy, and its stage is
emptied; no flag is set. -/
def clearClaims (s : State) (p : Port) : State :=
  (s.modSlots fun x => if x.owner = some p then x.release else x).modPort p fun c => { c with stage := none }

end State

end Sys2Proof.Machine
end

