-- ==== Sys2Proof/Machine/LinkEngine.lean ====
section
/-! DEFINITION. The link engine: frames, exchange begin and the reading of a reply (01). -/

namespace Sys2Proof.Machine

/-- Kind codes (R7). -/
def Kind.code (k : Kind) : BitVec 2 :=
  match k with
  | .cyclic => 0
  | .ident => 1
  | .read => 2
  | .write => 3

/-- Byte 0 of a request (R7): the kind in the top two bits, the station address in the low six. -/
def addressByte (k : Kind) (address : Byte) : Byte := k.code ++ address.setWidth 6

/-- A frame closed by its check word, high byte first (R7, R10). -/
def closeFrame (bytes : List Byte) : List Byte := bytes ++ [(crc bytes).high, (crc bytes).low]

/-- The payload of a READ or WRITE request (R9): the remote address high byte first, and a WRITE's data. -/
def Request.payload (r : Request) : List Byte :=
  [r.address.high, r.address.low] ++
    match r.kind with
    | .read => []
    | .write data => data.toList

/-- The expected reply length (R8). -/
def expectedLength (k : Kind) (cfg : SlotConfig) : Nat :=
  match k with
  | .cyclic => 4 + cfg.inputLength.toNat
  | .ident => 9
  | .read => 9
  | .write => 5

/-- Which request a record asks for (R102). -/
def RequestKind.kind (k : RequestKind) : Kind :=
  match k with
  | .read => .read
  | .write _ => .write

/-- The contents of a reply of the full expected length (R8, R16): the status flags, BUSY for READ and WRITE alone, and
the payload between byte 2 and the check word. -/
def Exchange.reply (x : Exchange) (bytes : List Byte) : Reply where
  err := (bytes.getD 1 0).getLsbD 0
  warn := (bytes.getD 1 0).getLsbD 1
  evt := (bytes.getD 1 0).getLsbD 2
  busy := (x.kind = .read || x.kind = .write) && (bytes.getD 1 0).getLsbD 3
  payload := (bytes.take (x.expected - 2)).drop 2

/-- The last two bytes of a full reply are its check word, the first of them the high byte (R8, R10, R15). -/
def Exchange.checks (x : Exchange) (bytes : List Byte) : Bool :=
  crc (bytes.take (x.expected - 2)) = Half.ofBytes (bytes.getD (x.expected - 2) 0) (bytes.getD (x.expected - 1) 0)

/-- What a received byte with a good stop bit decides (R12, R13, R15), if anything; `bytes` ends with it. -/
def Exchange.judge (x : Exchange) (bytes : List Byte) : Option Decision :=
  if bytes.length = 1 ∧ bytes.getD 0 0 ≠ x.request.getD 0 0 then some (.failed .badEcho)
  else if bytes.length < x.expected then none
  else if x.checks bytes then some (.success (x.reply bytes))
  else some (.failed .badCheck)

/-- The exchange the engine has in flight (R4): in SENDING, WAITING and RECEIVING. -/
def Engine.exchange (e : Engine) : Option Exchange :=
  match e with
  | .ready => none
  | .quiet _ _ => none
  | .sending x => some x
  | .waiting x _ => some x
  | .receiving x _ => some x

namespace State

/-- An exchange is in flight (R4). -/
def inFlight (s : State) : Bool := s.engine.exchange.isSome

/-- The payload of a request begun now (R7, R9). -/
def requestPayload (s : State) (k : Kind) (i : Fin 16) : List Byte :=
  match k with
  | .cyclic => (s.slot i).requestOutput
  | .ident => []
  | .read | .write =>
    match s.out with
    | some r => r.payload
    | none => []

/-- The frame of a request begun now (R7). -/
def requestFrame (s : State) (k : Kind) (i : Fin 16) : List Byte :=
  closeFrame ([addressByte k (s.slot i).config.address, s.sched.cycle.low] ++ s.requestPayload k i)

/-- The exchange as frozen at its begin (R4, R7, R8). -/
def newExchange (s : State) (k : Kind) (i : Fin 16) : Exchange where
  kind := k
  slot := i
  request := s.requestFrame k i
  expected := expectedLength k (s.slot i).config
  timeout := s.config.timeout
  rate := s.config.bitRate
  received := []

/-- Exchange begin (R4): the engine leaves READY for SENDING. -/
def beginExchange (s : State) (k : Kind) (i : Fin 16) : State :=
  { s with engine := .sending (s.newExchange k i), handed := none }

/-- A request handed to the engine (R4): begun at once in READY, pending otherwise. -/
def hand (s : State) (k : Kind) (i : Fin 16) : State :=
  match s.engine with
  | .ready => s.beginExchange k i
  | .quiet _ _ | .sending _ | .waiting _ _ | .receiving _ _ => { s with handed := some ⟨k, i⟩ }

/-- The engine enters READY and begins its pending request, if it holds one (R4, R5). -/
def enterReady (s : State) : State :=
  match s.handed with
  | none => { s with engine := .ready }
  | some h => s.beginExchange h.kind h.slot

/-- A low on the line in QUIET restarts the measurement of the guard (R5). -/
def lowOnLine (s : State) : State :=
  match s.engine with
  | .quiet rate _ => { s with engine := .quiet rate .lastLow }
  | .ready | .sending _ | .waiting _ _ | .receiving _ _ => s

end State

end Sys2Proof.Machine
end

