-- ==== Sys2Proof/Machine/Scheduler.lean ====
section
/-! DEFINITION. The cycle scheduler: cycle start, turns, cycle end, outcome reports, the link's start and stop (02). -/

namespace Sys2Proof.Machine

/-- Link state codes (2.3). -/
def LinkState.code (l : LinkState) : Byte :=
  match l with
  | .stopped => 0
  | .running => 1
  | .stopping => 2

/-- The exchange a planned slot gets at its turn, by its health state at that moment (R28); none skips the entry. -/
def HealthState.turn (h : HealthState) : Option Kind :=
  match h with
  | .active | .suspect => some .cyclic
  | .probing => some .ident
  | .disabled | .backoff | .lockedOut => none

/-- Whether a slot is given a plan entry in the cycle with this number (R27). -/
def Slot.planned (cycle : Half) (i : Fin 16) (x : Slot) : Bool :=
  match x.health.state with
  | .active => (cycle.toNat + i.val) % x.config.pollDivider.toNat = 0
  | .suspect | .probing => true
  | .disabled | .backoff | .lockedOut => false

/-- The cycle-end work on one slot: backoff (R52) and ageing (R66). -/
def Slot.cycleEnd (limit : Byte) (x : Slot) : Slot :=
  { x with health := x.health.cycleEnd, input := x.input.cycleEnd limit }

/-- The link's entry into STOPPED at one slot (R56, R70). -/
def Slot.stop (x : Slot) : Slot := { x with health := x.health.stop, input := x.input.stop }

namespace State

/-- The turns of the planned part (R28): entries are skipped until one is served; the place reached moves past it. -/
def planTurn (s : State) (plan : List (Fin 16)) : Option State :=
  match plan with
  | [] => none
  | i :: rest =>
    match (s.slot i).health.state.turn with
    | some k => some ((s.modSched fun c => { c with plan := rest }).hand k i)
    | none => s.planTurn rest

/-- A turn of the acyclic part (R30, R105): the queue head is taken while the allowance copy leaves room. -/
def acyclicTurn (s : State) : Option State :=
  match s.queue with
  | [] => none
  | r :: rest =>
    if s.sched.acyclic < s.sched.allowance then
      let t := { s with queue := rest, out := some r }
      let u := t.modSched fun c => { c with plan := [], acyclic := c.acyclic + 1 }
      some ((u.modWindow r.port r.window (·.enter .inFlight)).hand r.kind.kind r.slot)
    else none

/-- The end of a cycle (R32): the cycle-end work of the process image, the slot table and the attention unit (R52, R66,
R163), and the cycle is no longer in progress. -/
def endCycle (s : State) : State :=
  let t := s.changeSlots (·.cycleEnd s.config.staleLimit)
  { t.modSched fun c => { c with inCycle := false, plan := [] } with phase := !s.phase }

/-- A TIMER request where the new cycle number is a multiple of the timer divider (R119). -/
def timerCapture (s : State) : State :=
  if s.config.timerDivider ≠ 0 ∧ s.sched.cycle.toNat % s.config.timerDivider.toNat = 0 then s.takeCapture .timer else s

/-- The plan fixed now (R27, step 3). -/
def newPlan (s : State) : List (Fin 16) := allSlots.filter fun i => (s.slot i).planned s.sched.cycle i

/-- Cycle start, steps 1 to 5 of R27 but for the first turn. -/
def beginCycle (s : State) : State :=
  let t := (s.modSched fun c => { c with cycle := c.cycle + 1 }).timerCapture
  t.modSched fun c =>
    { c with plan := t.newPlan, acyclic := 0, allowance := t.config.allowance.toNat, inCycle := true }

/-- The next turn of the cycle (R28, R30), the cycle's end when there is none (R32), and the deferred start that
follows (R32, R33). `n` bounds the cycles that can end in one event: the second has no deferred start, so 2 is enough. -/
def turns (n : Nat) (s : State) : State :=
  match n with
  | 0 => s
  | k + 1 =>
    match s.planTurn s.sched.plan with
    | some t => t
    | none =>
      match s.acyclicTurn with
      | some t => t
      | none =>
        let t := s.endCycle
        if t.sched.deferred then turns k (t.modSched fun c => { c with deferred := false }).beginCycle else t

/-- The scheduler takes the next turn (R28). -/
def nextTurn (s : State) : State := s.turns 2

/-- A cycle starts (R27) and takes its first turn. -/
def startCycle (s : State) : State := s.beginCycle.nextTurn

/-- The link enters RUNNING (R21, R34): LINK_CHANGE, the timer from zero with the period 125 µs × P, a cycle at once. -/
def startLink (s : State) : State :=
  ((s.modSched fun c => { c with link := .running, timer := some (125 * s.config.period.toNat) }).raiseAll
    .linkChange).startCycle

/-- A request pending at the link engine is withdrawn (R25, R29, R106): a READ or WRITE ends its window with `c`. -/
def withdraw (s : State) (c : Cause) : State :=
  match s.handed with
  | none => s
  | some h =>
    let t := { s with handed := none }
    match h.kind with
    | .cyclic | .ident => t
    | .read | .write => t.dropOut c

/-- The link enters STOPPED (R25). -/
def enterStopped (s : State) : State :=
  let t := (s.withdraw .linkStopped).removeRequests (fun _ => true) .linkStopped
  let u := (t.changeSlots (·.stop)).raiseAll .linkChange
  { u.modSched fun c =>
      { c with link := .stopped, timer := none, inCycle := false, plan := [], acyclic := 0, deferred := false } with
    phase := false }

/-- One stop waiter gets DONE (R24). -/
def tellWaiter (s : State) (p : Port) : State :=
  if s.sched.waiters.get p then
    (s.modSched fun c => { c with waiters := c.waiters.set p false }).complete p linkStopCode .done LinkState.stopped.code
  else s

/-- STOPPING ends (R24): the link enters STOPPED and every stop waiter is told. -/
def endStopping (s : State) : State := ((s.enterStopped.tellWaiter .a).tellWaiter .b).tellWaiter .c

/-- A report of a READ or WRITE at the window unit (R106): applied to an IN_FLIGHT window (R107 to R109), discarded for
a CANCELLING one. The record is dropped unless R108 returns it to the queue. -/
def windowReport (s : State) (d : Decision) : State :=
  match s.out with
  | none => s
  | some r =>
    let t := { s with out := none }
    match (t.window r.port r.window).state with
    | .inFlight =>
      match d with
      | .success y => t.goodReply r y.busy y.payload
      | .failed f => t.failWindow r.port r.window (.link f) 0
    | .cancelling => t.endCancelling r.port r.window
    | .idle | .queued | .done | .failed => t

/-- A report without the discard mark at the process image and the window unit (R31). -/
def passContents (s : State) (k : Kind) (i : Fin 16) (d : Decision) : State :=
  match k with
  | .cyclic =>
    match d with
    | .success y => s.applyCyclic i y
    | .failed _ => s
  | .ident => s
  | .read | .write => s.windowReport d

/-- A report under the discard mark (R31): the window unit alone is told, and the mark is cleared. -/
def passDiscarded (s : State) (k : Kind) : State :=
  let t := s.modSched fun c => { c with discard := false }
  match k with
  | .cyclic | .ident => t
  | .read | .write => t.dropOut .slotLeft

/-- A report passed on to the blocks whose state it concerns (R31). -/
def passReport (s : State) (k : Kind) (i : Fin 16) (d : Decision) : State :=
  if s.sched.discard then s.passDiscarded k else (s.healthEvidence i k d).passContents k i d

/-- What the scheduler does when a report has been passed on (R31): the next turn in RUNNING, STOPPED in STOPPING. -/
def afterReport (s : State) : State :=
  match s.sched.link with
  | .running => s.nextTurn
  | .stopping => s.endStopping
  | .stopped => s

/-- The decision of an outcome (R16): the engine enters QUIET, its guard in bit times of the exchange's rate (R5), and
sends its one report. -/
def decideOutcome (s : State) (x : Exchange) (d : Decision) : State :=
  (({ s with engine := .quiet x.rate .quietEntry }).passReport x.kind x.slot d).afterReport

/-- The exchange of a slot in flight at its DISABLE is marked for discard (R31, R55). -/
def markDiscard (s : State) (i : Fin 16) : State :=
  match s.engine.exchange with
  | some x => if x.slot = i then s.modSched fun c => { c with discard := true } else s
  | none => s

/-- A request of the slot pending at its DISABLE is withdrawn and the next turn taken (R29, R55). -/
def withdrawDisabled (s : State) (i : Fin 16) : State :=
  match s.handed with
  | some h =>
    if h.slot = i then
      let t := s.withdraw .slotLeft
      if t.sched.link = .running then t.nextTurn else t
    else s
  | none => s

/-- DISABLE of a slot that is not DISABLED (R54): the slot, then its neighbours (R40). -/
def disableSlot (s : State) (i : Fin 16) : State := (((s.changeSlot i (·.disable)).slotLeft i).markDiscard i).withdrawDisabled i

/-- The port is removed from the stop waiters at its port clear (R24, R150). -/
def clearWaiter (s : State) (p : Port) : State := s.modSched fun c => { c with waiters := c.waiters.set p false }

end State

end Sys2Proof.Machine
end

