-- ==== Sys2Proof/Machine/Operands.lean ====
section
/-! DEFINITION. Where a byte access goes: the port's transport, the port page, the image space (8.1 to 8.6, 11.1, 11.3). -/

namespace Sys2Proof.Machine

/-- The locations of a window row (11.1). -/
inductive WindowField where
  | slot | mode | addressLow | addressHigh | mask | state | cause | flags
  | data (k : Fin 4)
  | detail | unassigned
  deriving DecidableEq, Repr

/-- The window location at an offset of its row (11.1). -/
def WindowField.at (off : Nat) : WindowField :=
  match off with
  | 0x0 => .slot
  | 0x1 => .mode
  | 0x2 => .addressLow
  | 0x3 => .addressHigh
  | 0x4 => .mask
  | 0x5 => .state
  | 0x6 => .cause
  | 0x7 => .flags
  | 0x8 => .data 0
  | 0x9 => .data 1
  | 0xA => .data 2
  | 0xB => .data 3
  | 0xC => .detail
  | _ => .unassigned

/-- The descriptor locations of a window row (R96). -/
def WindowField.isDescriptor (f : WindowField) : Bool :=
  f = .slot || f = .mode || f = .addressLow || f = .addressHigh || f = .mask

/-- The locations of a port page (11.1). -/
inductive PageLocation where
  | partCode | revision | portName | role | status | events | enables
  | cmd | arg0 | arg1 | arg2 | result | detail | page | pointerLow | pointerHigh | data
  | linkState | cycleLow | cycleHigh
  | health (i : Fin 16)
  | window (w : Fin 4) (f : WindowField)
  | image (off : Nat)
  | unassigned
  deriving DecidableEq, Repr

/-- The port page's fixed locations 0x00 to 0x1F (11.1). -/
def PageLocation.fixed (a : Nat) : PageLocation :=
  match a with
  | 0x00 => .partCode
  | 0x01 => .revision
  | 0x02 => .portName
  | 0x03 => .role
  | 0x04 => .status
  | 0x05 => .events
  | 0x06 => .enables
  | 0x08 => .cmd
  | 0x09 => .arg0
  | 0x0A => .arg1
  | 0x0B => .arg2
  | 0x0C => .result
  | 0x0D => .detail
  | 0x10 => .page
  | 0x11 => .pointerLow
  | 0x12 => .pointerHigh
  | 0x13 => .data
  | 0x14 => .linkState
  | 0x15 => .cycleLow
  | 0x16 => .cycleHigh
  | _ => .unassigned

/-- The location at a port-page address (11.1). -/
def PageLocation.at (a : Byte) : PageLocation :=
  let n := a.toNat
  if n < 0x20 then .fixed n
  else if n < 0x30 then .health (Fin.ofNat 16 n)
  else if n < 0x40 then .unassigned
  else if n < 0x80 then .window (Fin.ofNat 4 (n / 16)) (.at (n % 16))
  else .image (n - 0x80)

/-- The locations of the image space (11.3). `inputByte` is +0x01 to +0x14 of a runtime page, `health` +0x40 to +0x50
without the owner, `linkStatus` +0x00 to +0x04 of the settings page. -/
inductive ImageLocation where
  | inputState (i : Fin 16)
  | inputByte (i : Fin 16) (off : Nat)
  | commitCount (i : Fin 16)
  | outputLength (i : Fin 16)
  | output (i : Fin 16) (k : Fin 16)
  | commit (i : Fin 16)
  | health (i : Fin 16) (off : Nat)
  | owner (i : Fin 16)
  | config (i : Fin 16) (f : ConfigField)
  | capture (off : Nat)
  | linkStatus (off : Nat)
  | setting (g : Global)
  | captureStatus (off : Nat)
  | identity (off : Nat)
  | unassigned
  deriving DecidableEq, Repr

/-- The location at an offset of slot `i`'s runtime page (11.3.1). -/
def ImageLocation.runtime (i : Fin 16) (off : Nat) : ImageLocation :=
  if off = 0x00 then .inputState i
  else if off ≤ 0x14 then .inputByte i off
  else if off < 0x20 then .unassigned
  else if off = 0x20 then .commitCount i
  else if off = 0x21 then .outputLength i
  else if off ≤ 0x31 then .output i (Fin.ofNat 16 (off - 0x22))
  else if off = 0x32 then .commit i
  else if off < 0x40 then .unassigned
  else if off = 0x48 then .owner i
  else if off ≤ 0x50 then .health i off
  else .unassigned

/-- The location at an offset of the settings page (11.3.4). -/
def ImageLocation.settings (off : Nat) : ImageLocation :=
  if off < 0x05 then .linkStatus off
  else if off < 0x10 then .unassigned
  else
    match Global.all[off - 0x10]? with
    | some g => .setting g
    | none => .unassigned

/-- The location at an image address (11.3). -/
def ImageLocation.at (a : BitVec 13) : ImageLocation :=
  let page := a.toNat / 128
  let off := a.toNat % 128
  if page < 16 then .runtime (Fin.ofNat 16 page) off
  else if page < 32 then
    match ConfigField.at off with
    | some f => .config (Fin.ofNat 16 page) f
    | none => .unassigned
  else if page < 36 then .capture (a.toNat - 0x1000)
  else if page = 36 then .settings off
  else if page = 37 then (if off < 0x06 then .captureStatus off else .unassigned)
  else if page = 38 then (if off < 0x05 then .identity off else .unassigned)
  else .unassigned

/-- What one byte access reaches: a location of the port page, or an image location by the image window or by DATA. -/
inductive Target where
  | page (l : PageLocation)
  | image (l : ImageLocation)
  deriving DecidableEq, Repr

/-- DATA's port-page address (11.1). -/
def dataAddress : Byte := 0x13

namespace State

/-- The SPI transport of Port A or B. -/
def spi (s : State) (p : SpiPort) : Spi :=
  match p with
  | .a => s.spiA
  | .b => s.spiB

/-- The SPI transport of Port A or B replaced. -/
def setSpi (s : State) (p : SpiPort) (x : Spi) : State :=
  match p with
  | .a => { s with spiA := x }
  | .b => { s with spiB := x }

/-- The direction (write or not) and the port-page address of the access a port's transport can make next: in the data
bytes of an SPI transfer (R137), in a Port C transaction past its first byte (R139, R140). None otherwise. -/
def transfer (s : State) (p : Port) : Option (Bool × Byte) :=
  match p with
  | .a => match s.spiA.phase with
    | .data w a => some (w, a)
    | .idle | .operation | .address _ | .void | .abandoned => none
  | .b => match s.spiB.phase with
    | .data w a => some (w, a)
    | .idle | .operation | .address _ | .void | .abandoned => none
  | .c => match s.i2c.phase with
    | .writing => some (true, s.i2c.current)
    | .reading => some (false, s.i2c.current)
    | .idle | .target | .firstByte => none

/-- The image address an image-window access reaches (R143). -/
def windowAddress (s : State) (p : Port) (off : Nat) : BitVec 13 :=
  BitVec.ofNat 13 (128 * (s.port p).page.toNat + off)

/-- What an access of port `p` at a port-page address reaches (R136, R143, R144). -/
def target (s : State) (p : Port) (a : Byte) : Target :=
  match PageLocation.at a with
  | .image off => .image (.at (s.windowAddress p off))
  | .data => .image (.at (s.port p).pointer)
  | l => .page l

/-- The address after a data access (R141): one on, from 0xFF to 0x00, but DATA stays. -/
def advanceAddress (a : Byte) : Byte := if a = dataAddress then a else a + 1

/-- The transport after one data access (R137, R139 to R141): the address advances; an SPI port sends the byte read, or
0x00 for a byte written; Port C sends the byte read, or acknowledges the byte written. -/
def afterByte (s : State) (p : Port) (w : Bool) (a : Byte) (read : Byte) : State :=
  let spi : Spi := ⟨.data w (advanceAddress a), some (if w then 0 else read)⟩
  match p with
  | .a => { s with spiA := spi }
  | .b => { s with spiB := spi }
  | .c => { s with i2c := { s.i2c with
      current := advanceAddress a, sda := if w then none else some read, ack := w } }

/-- PTR after an access at address `a` (R144): every DATA access moves it on, from 0x1FFF to 0x0000. -/
def afterData (s : State) (p : Port) (a : Byte) : State :=
  if a = dataAddress then s.modPort p fun c => { c with pointer := c.pointer + 1 } else s

/-- One byte access of port `p` (R136, R141, R153). Where the transport cannot make it, nothing happens. During LOADING
it reaches no owner: it reads 0, changes nothing, and PTR stays. Otherwise the row `mine` says which targets are its own
(log entry 1), `effect` is the owner's, and `value` what a read returns. -/
def access (s : State) (p : Port) (x : Access) (mine : Target → Bool) (value : Target → State → Byte)
    (effect : Target → State → State) : State :=
  match s.transfer p with
  | none => s
  | some (w, a) =>
    if w ≠ x.isWrite then s
    else if !s.ready then s.afterByte p w a 0
    else if mine (s.target p a) then
      ((effect (s.target p a) s).afterData p a).afterByte p w a (value (s.target p a) s)
    else s

/-- A write access with the owner's effect. -/
def writeAccess (s : State) (p : Port) (v : Byte) (mine : Target → Bool) (effect : Target → State → State) : State :=
  s.access p (.write v) mine (fun _ _ => 0) effect

end State

end Sys2Proof.Machine
end

