-- ==== Sys2Proof/Machine/ImageAccess.lean ====
section
/-! DEFINITION. What each location reads, what a read of it does, and what a write of it does, by its owner
(8.1, 11.1, 11.3). -/

namespace Sys2Proof.Machine

/-- Byte `off` of a slot's health fields on its runtime page (3.3, 11.3.1). -/
def Health.byte (h : Health) (off : Nat) : Byte :=
  match off with
  | 0x40 => h.state.code
  | 0x41 => failureCode h.lastFailure
  | 0x42 => h.lockCause.code
  | 0x43 => BitVec.ofNat 8 h.consecutive
  | 0x44 => BitVec.ofNat 8 h.quick
  | 0x45 => BitVec.ofNat 8 h.rounds
  | 0x46 => Half.low (BitVec.ofNat 16 h.backoff)
  | 0x47 => Half.high (BitVec.ofNat 16 h.backoff)
  | 0x49 => h.goodCount.low
  | 0x4A => h.goodCount.high
  | 0x4B => h.failureCount.low
  | 0x4C => h.failureCount.high
  | 0x4D => h.lossCount
  | 0x4E => h.reportedClass.low
  | 0x4F => h.reportedClass.high
  | 0x50 => h.reportedRevision
  | _ => 0

/-- A window location as it reads (R96, R97, R99, 11.1). -/
def Window.byte (w : Window) (f : WindowField) : Byte :=
  match f with
  | .slot => BitVec.ofNat 8 w.slot.val
  | .mode => Byte.bit w.fetch 0 ||| Byte.bit w.step 1
  | .addressLow => w.address.low
  | .addressHigh => w.address.high
  | .mask => w.mask.setWidth 8
  | .state => w.state.code
  | .cause => w.cause.code
  | .flags => Byte.bit w.overrun 0
  | .data k => w.result[k]
  | .detail => w.detail
  | .unassigned => 0

/-- A descriptor field takes a byte that is in range (R96): each byte of the address on its own, upper bits ignored. -/
def Window.putDescriptor (w : Window) (f : WindowField) (v : Byte) : Window :=
  match f with
  | .slot => { w with slot := Fin.ofNat 16 v.toNat }
  | .mode => { w with fetch := v.getLsbD 0, step := v.getLsbD 1 }
  | .addressLow => { w with address := setLow w.address v }
  | .addressHigh => { w with address := setHigh w.address v }
  | .mask => { w with mask := v.setWidth 4 }
  | .state | .cause | .flags | .data _ | .detail | .unassigned => w

/-- PORT_NAME (11.1). -/
def portName (p : Port) : Byte :=
  match p with
  | .a => 0x0A
  | .b => 0x0B
  | .c => 0x0C

/-- Store state codes (R165). -/
def StoreState.code (x : StoreState) : Byte :=
  match x with
  | .valid => 1
  | .defaulted => 2
  | .saving => 3

/-- Last save result codes (R165, 11.2). -/
def SaveResult.code (x : SaveResult) : Byte :=
  match x with
  | .none => 0
  | .done => 1
  | .inProgress => 2
  | .failedVerify => 10

namespace State

/-- A location of the port page as it reads (R145, R146, R152, 11.1). -/
def pageByte (s : State) (p : Port) (l : PageLocation) : Byte :=
  let c := s.port p
  match l with
  | .partCode => Config.partCode
  | .revision => Config.revision
  | .portName => Machine.portName p
  | .role => (s.role p).code.setWidth 8
  | .status => c.status s.ready
  | .events => c.events
  | .enables => c.enables
  | .cmd => c.command.code
  | .arg0 => c.command.arg0
  | .arg1 => c.command.arg1
  | .arg2 => c.command.arg2
  | .result => c.command.result.code
  | .detail => c.command.detail
  | .page => c.page.setWidth 8
  | .pointerLow => c.pointer.setWidth 8
  | .pointerHigh => (c.pointer >>> 8).setWidth 8
  | .data => 0
  | .linkState => s.sched.link.code
  | .cycleLow => s.sched.cycle.low
  | .cycleHigh => s.sched.cycle.high
  | .health i => (s.slot i).health.state.code
  | .window w f => (s.window p w).byte f
  | .image _ => 0
  | .unassigned => 0

/-- Byte `off` of the settings page's read-only part (R178, 11.3.4). -/
def linkStatusByte (s : State) (off : Nat) : Byte :=
  match off with
  | 0 => s.sched.link.code
  | 1 => s.sched.cycle.low
  | 2 => s.sched.cycle.high
  | 3 => s.sched.overruns.low
  | 4 => s.sched.overruns.high
  | _ => 0

/-- Byte `off` of the identity page (R165, R178, 11.3.6). -/
def identityByte (s : State) (off : Nat) : Byte :=
  match off with
  | 0 => Config.partCode
  | 1 => Config.revision
  | 2 => s.store.state.code
  | 3 => s.store.resetCause.code
  | 4 => s.store.lastSave.code
  | _ => 0

/-- An image location as port `p` reads it: the state byte is the one just copied (R75), the other input-record bytes
come from the port's snapshot where it holds the slot (R76). -/
def imageByte (s : State) (p : Port) (l : ImageLocation) : Byte :=
  match l with
  | .inputState i => (s.copyRecord i).byte 0
  | .inputByte i off => (s.seenRecord p i).byte off
  | .commitCount i => (s.slot i).output.commitCount
  | .outputLength i => (s.slot i).config.outputLength
  | .output i k => s.outputByte i k
  | .commit _ => 0
  | .health i off => (s.slot i).health.byte off
  | .owner i => ownerCode (s.slot i).owner
  | .config i f => (s.slot i).config.byte f
  | .capture off => s.captureAreaByte p off
  | .linkStatus off => s.linkStatusByte off
  | .setting g => s.config.byte g
  | .captureStatus off => s.captureStatusByte p off
  | .identity off => s.identityByte off
  | .unassigned => 0

/-- What a read access returns. -/
def readValue (p : Port) (t : Target) (s : State) : Byte :=
  match t with
  | .page l => s.pageByte p l
  | .image l => s.imageByte p l

/-- What a read access does: a state byte takes a snapshot (R75), data byte 0 of a FETCH window triggers (R101), every
other location does nothing. -/
def readEffect (p : Port) (t : Target) (s : State) : State :=
  match t with
  | .page (.window w (.data k)) => s.readDataByte p w k
  | .page _ => s
  | .image (.inputState i) => s.takeSnapshot p i
  | .image _ => s

/-- A write to a byte of the global settings, each under its own rule (R2, R19: only while STOPPED). -/
def writeSetting (s : State) (p : Port) (g : Global) (v : Byte) : State :=
  match g with
  | .bitRate | .period => s.writeGlobal p g (s.sched.link = .stopped) v
  | .timeout | .allowance | .staleLimit | .suspectLimit | .firstQuick | .rejoinQuick | .backoff | .lockout | .roles
  | .linkstat | .pinEdge | .timerDivider | .captureLow | .captureHigh | .eventLow | .eventHigh =>
    s.writeGlobal p g true v

/-- A write to an image location, by its owner (R136); read-only ones set ACCESS_REFUSED (R59, R61, R72, R80, R129,
R131, R165, R178), unassigned ones are ignored (R176). -/
def writeImage (s : State) (p : Port) (l : ImageLocation) (v : Byte) : State :=
  match l with
  | .output i k => s.stageByte p i k v
  | .commit i => s.commitStage p i
  | .config i f => s.writeSlotConfig p i f v
  | .setting g => s.writeSetting p g v
  | .unassigned => s
  | .inputState _ | .inputByte _ _ | .commitCount _ | .outputLength _ | .health _ _ | .owner _ | .capture _
  | .linkStatus _ | .captureStatus _ | .identity _ => s.refuse p

/-- A store to a descriptor location of window `w` (R96): refused while the window is busy, or for a slot above 15. -/
def storeDescriptor (s : State) (p : Port) (w : Fin 4) (f : WindowField) (v : Byte) : State :=
  if (s.window p w).state.busy then s.refuse p
  else if f = .slot ∧ v.toNat ≥ 16 then s.refuse p
  else s.modWindow p w (·.putDescriptor f v)

/-- A store to window `w`'s flags location (R97): a value with bit 0 set clears OVERRUN. -/
def storeFlags (s : State) (p : Port) (w : Fin 4) (v : Byte) : State :=
  if v.getLsbD 0 then s.modWindow p w fun x => { x with overrun := false } else s

/-- A write to a plain or read-only location of the port page (R145, R146, R97). -/
def writePlainPage (s : State) (p : Port) (l : PageLocation) (v : Byte) : State :=
  match l with
  | .arg0 => s.modCommand p fun c => { c with arg0 := v }
  | .arg1 => s.modCommand p fun c => { c with arg1 := v }
  | .arg2 => s.modCommand p fun c => { c with arg2 := v }
  | .partCode | .revision | .portName | .role | .result | .detail | .linkState | .cycleLow | .cycleHigh
  | .health _ | .window _ .state | .window _ .cause | .window _ .detail => s.refuse p
  | .status | .events | .enables | .cmd | .page | .pointerLow | .pointerHigh | .data | .window _ _ | .image _
  | .unassigned => s

end State

end Sys2Proof.Machine
end

