-- ==== Sys2Proof/Machine/SlotCommands.lean ====
section
/-! DEFINITION. The commands that name a slot, and the write of CMD they share (05, 03, 04, 8.7). -/

namespace Sys2Proof.Machine

/-- CMD is the location a write of it reaches (R136, R146). -/
def isCmd (t : Target) : Bool := t = .page .cmd

/-- RES_DETAIL BAD_ARG of an ENABLE with station address 0 (R42). -/
def badAddress : Byte := 0xF1

namespace State

/-- A write of `code` to CMD by port `p` (R136, R146, R148): the access, and at it the command. -/
def cmdWrite (s : State) (p : Port) (code : Byte) (owner : State → Answer) : State :=
  s.writeAccess p code isCmd fun _ t => t.issue p code owner

/-- The role check (R147, step 1). -/
def checkRole (s : State) (permitted : Bool) (next : Answer) : Answer :=
  if permitted then next else ⟨s, .refusedRole, 0⟩

/-- The slot index check (R147, step 2): ARG0 as it stands at the write of CMD (R146). -/
def withSlot (s : State) (p : Port) (next : Fin 16 → Answer) : Answer :=
  match slotOf (s.command p).arg0 with
  | none => ⟨s, .badArg, badIndex⟩
  | some i => next i

/-- A CONTROL or SUPERVISE port. -/
def mayDrive (s : State) (p : Port) : Bool := s.role p ≠ .observe

/-- A SUPERVISE port. -/
def supervises (s : State) (p : Port) : Bool := s.role p = .supervise

/-- CLAIM of slot `i` (R81). -/
def claimSlot (s : State) (p : Port) (i : Fin 16) : Answer :=
  match (s.slot i).owner with
  | none => ⟨s.modSlot i fun x => { x with owner := some p }, .done, p.code⟩
  | some q => if q = p then ⟨s, .done, p.code⟩ else ⟨s, .refusedOwned, q.code⟩

/-- The claim table's answer to CLAIM (R81): role, slot index, owner. -/
def claimAnswer (s : State) (p : Port) : Answer := s.checkRole (s.mayDrive p) (s.withSlot p (s.claimSlot p))

/-- The claim table's answer to RELEASE (R83): slot index, then ownership. -/
def releaseAnswer (s : State) (p : Port) : Answer :=
  s.withSlot p fun i =>
    if (s.slot i).owner = some p then ⟨s.modSlot i (·.release), .done, (s.slot i).config.releaseDetail⟩
    else ⟨s, .notOwner, ownerCode (s.slot i).owner⟩

/-- REVOKE of slot `i` (R85, R86). -/
def revokeSlot (s : State) (i : Fin 16) : Answer :=
  match (s.slot i).owner with
  | none => ⟨s, .done, 0⟩
  | some q => ⟨(s.modSlot i (·.release)).claimLost q i, .done, (s.slot i).config.releaseDetail⟩

/-- The claim table's answer to REVOKE (R85): role, slot index. -/
def revokeAnswer (s : State) (p : Port) : Answer := s.checkRole (s.supervises p) (s.withSlot p s.revokeSlot)

/-- RES_DETAIL of a slot command that reached the state check (R42): the health state after the command. -/
def healthDetail (s : State) (i : Fin 16) : Byte := (s.slot i).health.state.code

/-- ENABLE of slot `i` (R42, R43): address 0, duplicate address, state. -/
def enableSlot (s : State) (i : Fin 16) : Answer :=
  if !s.addressValid i then ⟨s, .badArg, badAddress⟩
  else
    match s.addressHolder i with
    | some j => ⟨s, .badArg, BitVec.ofNat 8 j.val⟩
    | none =>
      if (s.slot i).health.state = .disabled then
        let t := s.changeSlot i (·.enable)
        ⟨t, .done, t.healthDetail i⟩
      else ⟨s, .refusedState, s.healthDetail i⟩

/-- The slot table's answer to ENABLE (R42): role, slot index, address, state. -/
def enableAnswer (s : State) (p : Port) : Answer := s.checkRole (s.supervises p) (s.withSlot p s.enableSlot)

/-- DISABLE of slot `i` (R54): accepted in every health state; a DISABLED slot does not change. -/
def disableAnswerSlot (s : State) (i : Fin 16) : Answer :=
  if (s.slot i).health.state = .disabled then ⟨s, .done, HealthState.disabled.code⟩
  else ⟨s.disableSlot i, .done, HealthState.disabled.code⟩

/-- The slot table's answer to DISABLE (R42): role, slot index. -/
def disableAnswer (s : State) (p : Port) : Answer := s.checkRole (s.supervises p) (s.withSlot p s.disableAnswerSlot)

/-- RESTART of slot `i` (R53): accepted in LOCKED_OUT alone. -/
def restartSlot (s : State) (i : Fin 16) : Answer :=
  if (s.slot i).health.state = .lockedOut then
    let t := s.changeSlot i fun x => { x with health := x.health.restart }
    ⟨t, .done, t.healthDetail i⟩
  else ⟨s, .refusedState, s.healthDetail i⟩

/-- The slot table's answer to RESTART (R42): role, slot index, state. -/
def restartAnswer (s : State) (p : Port) : Answer := s.checkRole (s.mayDrive p) (s.withSlot p s.restartSlot)

/-- The process image's answer to CLEAR_LATCH (R71): slot index, then authority. -/
def clearLatchAnswer (s : State) (p : Port) : Answer :=
  s.withSlot p fun i =>
    if (s.slot i).owner = some p ∨ s.supervises p = true then
      ⟨s.modSlot i fun x => { x with input := { x.input with err := false } }, .done, Byte.bit (s.slot i).input.err 0⟩
    else ⟨s, .notOwner, ownerCode (s.slot i).owner⟩

end State

/-- CLAIM (R81): code 0x01. -/
def execClaim (p : Port) (s : State) : Host.Outcome State Fault Refusal :=
  (s.cmdWrite p 0x01 (·.claimAnswer p)).finish

/-- RELEASE (R83): code 0x02. -/
def execRelease (p : Port) (s : State) : Host.Outcome State Fault Refusal :=
  (s.cmdWrite p 0x02 (·.releaseAnswer p)).finish

/-- REVOKE (R85): code 0x03. -/
def execRevoke (p : Port) (s : State) : Host.Outcome State Fault Refusal :=
  (s.cmdWrite p 0x03 (·.revokeAnswer p)).finish

/-- ENABLE (R43): code 0x04. -/
def execEnable (p : Port) (s : State) : Host.Outcome State Fault Refusal :=
  (s.cmdWrite p 0x04 (·.enableAnswer p)).finish

/-- DISABLE (R54): code 0x05. -/
def execDisable (p : Port) (s : State) : Host.Outcome State Fault Refusal :=
  (s.cmdWrite p 0x05 (·.disableAnswer p)).finish

/-- RESTART (R53): code 0x06. -/
def execRestart (p : Port) (s : State) : Host.Outcome State Fault Refusal :=
  (s.cmdWrite p 0x06 (·.restartAnswer p)).finish

/-- CLEAR_LATCH (R71): code 0x07. -/
def execClearLatch (p : Port) (s : State) : Host.Outcome State Fault Refusal :=
  (s.cmdWrite p 0x07 (·.clearLatchAnswer p)).finish

end Sys2Proof.Machine
end

