-- ==== Sys2Proof/Machine/LinkCommands.lean ====
section
/-! DEFINITION. LINK_START, LINK_STOP, SAVE_CONFIG and the events of a save (2.3, 10.6). -/

namespace Sys2Proof.Machine

/-- Cell `a` of the store takes `v` (R172). -/
def Store.cell (x : Store) (a : Nat) (v : Byte) : Store := { x with cells := Memory.write x.cells a v }

namespace State

/-- LINK_START by link state (R21). -/
def linkStartAnswer (s : State) (p : Port) : Answer :=
  s.checkRole (s.supervises p)
    (match s.sched.link with
      | .stopped => ⟨s.startLink, .done, LinkState.running.code⟩
      | .running => ⟨s, .done, LinkState.running.code⟩
      | .stopping => ⟨s, .refusedState, LinkState.stopping.code⟩)

/-- The port becomes a stop waiter (R22, R23). -/
def addWaiter (s : State) (p : Port) : State := s.modSched fun c => { c with waiters := c.waiters.set p true }

/-- LINK_STOP by link state (R22, R23). -/
def linkStopAnswer (s : State) (p : Port) : Answer :=
  s.checkRole (s.supervises p)
    (match s.sched.link with
      | .stopped => ⟨s, .done, LinkState.stopped.code⟩
      | .running =>
        if s.inFlight then
          ⟨((s.modSched fun c => { c with link := .stopping }).raiseAll .linkChange).addWaiter p, .inProgress, 0⟩
        else ⟨s.enterStopped, .done, LinkState.stopped.code⟩
      | .stopping => ⟨s.addWaiter p, .inProgress, 0⟩)

/-- The save accepted (R171): image, issuer, store state and last save result. -/
def startSave (s : State) (p : Port) : State :=
  { s with store := { s.store with
      state := .saving
      lastSave := .inProgress
      save := some ⟨s.saveImage, .erase, p, true⟩ } }

/-- The configuration store's answer to SAVE_CONFIG (R171): role, then state. -/
def saveConfigAnswer (s : State) (p : Port) : Answer :=
  s.checkRole (s.supervises p)
    (if s.store.save.isSome then ⟨s, .busy, 0⟩ else ⟨s.startSave p, .inProgress, 0⟩)

/-- The completion of the save `v` (R173): store state, last save result, and the issuer where it is to be told. -/
def completeSave (s : State) (v : Save) (good : Bool) (detail : Byte) : State :=
  let t := { s with store := { s.store with
    state := if good then .valid else .defaulted
    lastSave := if good then .done else .failedVerify
    save := none } }
  if v.tell then t.complete v.issuer saveConfigCode (if good then .done else .failedVerify) detail else t

/-- The end of phase 1 (R172): cells 0x000 and 0x001 are erased. -/
def saveErased (s : State) (v : Save) : State :=
  { s with store := { (s.store.cell 0 Config.erasedCell).cell 1 Config.erasedCell with save := some { v with phase := .body } } }

end State

/-- The bytes that phase 2 leaves from cell `start` on (R172): those of the image, or the ones that read back otherwise
(log entry 9). -/
def overlay (misread : List Host.Cell) (start : Nat) (image : List Byte) : List Byte :=
  match image with
  | [] => []
  | v :: rest =>
    (match misread.find? fun c => c.1 = start with
      | some c => c.2
      | none => v) :: overlay misread (start + 1) rest

namespace State

/-- The end of phase 2 (R172, R173): cells 0x002 to 0x3FF read back as written, but for `misread`; every byte equal leads
to phase 3, any other completes the save with FAILED_VERIFY and RES_DETAIL 1. -/
def saveWritten (s : State) (v : Save) (misread : List Host.Cell) : State :=
  let body := v.image.drop 2
  let read := overlay misread 2 body
  let t := { s with store := { s.store with
    cells := Memory.ofBytes 0 (s.cellBytes.take 2 ++ read), save := some { v with phase := .validation } } }
  if read = body then t else t.completeSave v false 1

/-- The end of phase 3 (R172, R173): cells 0x001 and 0x000 as they read back. -/
def saveValidated (s : State) (v : Save) (cell1 cell0 : Byte) : State :=
  let t := { s with store := (s.store.cell 1 cell1).cell 0 cell0 }
  if cell1 = Config.validation1 ∧ cell0 = Config.validation0 then t.completeSave v true 0 else t.completeSave v false 2

/-- What an event does to the save that is in the phase it belongs to; nothing where none is (log entry 2). -/
def inSave (s : State) (phase : SavePhase) (f : Save → State) : State :=
  match s.store.save with
  | none => s
  | some v => if v.phase = phase then f v else s

end State

/-- LINK_START (R21): code 0x0E. -/
def execLinkStart (p : Port) (s : State) : Host.Outcome State Fault Refusal :=
  (s.cmdWrite p 0x0E (·.linkStartAnswer p)).finish

/-- LINK_STOP (R22, R23): code 0x0F. -/
def execLinkStop (p : Port) (s : State) : Host.Outcome State Fault Refusal :=
  (s.cmdWrite p linkStopCode (·.linkStopAnswer p)).finish

/-- SAVE_CONFIG (R171): code 0x10. -/
def execSaveConfig (p : Port) (s : State) : Host.Outcome State Fault Refusal :=
  (s.cmdWrite p saveConfigCode (·.saveConfigAnswer p)).finish

/-- SAVE_ERASE_DONE (R172): phase 1 ends. -/
def execSaveEraseDone (s : State) : Host.Outcome State Fault Refusal :=
  (s.inSave .erase s.saveErased).finish

/-- SAVE_BODY_DONE (R172, R173): phase 2 ends. -/
def execSaveBodyDone (misread : List Host.Cell) (s : State) : Host.Outcome State Fault Refusal :=
  (s.inSave .body fun v => s.saveWritten v misread).finish

/-- SAVE_COMPLETE (R173): phase 3 ends. -/
def execSaveComplete (cell1 cell0 : Byte) (s : State) : Host.Outcome State Fault Refusal :=
  (s.inSave .validation fun v => s.saveValidated v cell1 cell0).finish

end Sys2Proof.Machine
end

