-- ==== Sys2Proof/Machine/LinkEvents.lean ====
section
/-! DEFINITION. The events of the field link, of the link engine's timers and of the cycle timer (01, 02). -/

namespace Sys2Proof.Machine

/-- GUARD_MET (R5): the line has been high for 4 bit times in QUIET; the engine enters READY and begins its pending
request. -/
def execGuardMet (s : State) : Host.Outcome State Fault Refusal :=
  (match s.engine with
    | .quiet _ _ => s.enterReady
    | .ready | .sending _ | .waiting _ _ | .receiving _ _ => s).finish

/-- GUARD_TIMEOUT (R5): 400 bit times in QUIET without the guard met; the engine enters READY whatever the line shows. -/
def execGuardTimeout (s : State) : Host.Outcome State Fault Refusal :=
  (match s.engine with
    | .quiet _ _ => s.enterReady
    | .ready | .sending _ | .waiting _ _ | .receiving _ _ => s).finish

/-- REQUEST_SENT (R4): the last stop bit of the request ends; LINK_DE is deasserted, the response timer starts. -/
def execRequestSent (s : State) : Host.Outcome State Fault Refusal :=
  (match s.engine with
    | .sending x => { s with engine := .waiting x false }
    | .ready | .quiet _ _ | .waiting _ _ | .receiving _ _ => s).finish

/-- RESPONSE_TIMEOUT (R11): the response timer reaches its limit. Line high: NO_REPLY. Line low: the middle of that bit
time decides (REPLY_START_BIT). -/
def execResponseTimeout (line : Level) (s : State) : Host.Outcome State Fault Refusal :=
  (match s.engine with
    | .waiting x false =>
      match line with
      | .high => s.decideOutcome x (.failed .noReply)
      | .low => { s with engine := .waiting x true }
    | .ready | .quiet _ _ | .sending _ | .waiting _ true | .receiving _ _ => s).finish

/-- REPLY_BYTE (R12, R13, R15): a byte is taken at its stop bit. A bad stop bit is BAD_CHECK whichever byte it is; a good
one leads to BAD_ECHO, to the end of the reply, or to the idle timer. A byte in QUIET only delays the guard (R5). -/
def execReplyByte (v : Byte) (stop : Level) (s : State) : Host.Outcome State Fault Refusal :=
  (match s.engine with
    | .receiving x .stopped =>
      match stop with
      | .low => s.decideOutcome x (.failed .badCheck)
      | .high =>
        match x.judge (x.received ++ [v]) with
        | some d => s.decideOutcome x d
        | none => { s with engine := .receiving { x with received := x.received ++ [v] } .running }
    | .quiet _ _ => s.lowOnLine
    | .ready | .sending _ | .waiting _ _ | .receiving _ .running | .receiving _ .expiredLow => s).finish

/-- IDLE_TIMEOUT (R14): 40 bit times of idle before the expected length has arrived. Line high: BAD_LENGTH. Line low: the
middle of that bit time decides (REPLY_START_BIT). -/
def execIdleTimeout (line : Level) (s : State) : Host.Outcome State Fault Refusal :=
  (match s.engine with
    | .receiving x .running =>
      match line with
      | .high => s.decideOutcome x (.failed .badLength)
      | .low => { s with engine := .receiving x .expiredLow }
    | .ready | .quiet _ _ | .sending _ | .waiting _ _ | .receiving _ .stopped | .receiving _ .expiredLow => s).finish

/-- REPLY_START_BIT (R1, R11, R14): a low on the line is looked at in the middle of its bit time. Still low: a start bit,
which stops the timer. High again: no start bit, and NO_REPLY or BAD_LENGTH where the timer has reached its limit. -/
def execReplyStartBit (middle : Level) (s : State) : Host.Outcome State Fault Refusal :=
  (match s.engine with
    | .waiting x expired =>
      match middle with
      | .low => { s with engine := .receiving x .stopped }
      | .high => if expired then s.decideOutcome x (.failed .noReply) else s
    | .receiving x .running =>
      match middle with
      | .low => { s with engine := .receiving x .stopped }
      | .high => s
    | .receiving x .expiredLow =>
      match middle with
      | .low => { s with engine := .receiving x .stopped }
      | .high => s.decideOutcome x (.failed .badLength)
    | .quiet _ _ => s.lowOnLine
    | .ready | .sending _ | .receiving _ .stopped => s).finish

/-- GUARD_RESTART (R5): a low on the line in QUIET restarts the measurement of the guard. -/
def execGuardRestart (s : State) : Host.Outcome State Fault Refusal := s.lowOnLine.finish

/-- An overrun (R33): counted up to 65535, OVERRUN in every port, and a deferred start held. -/
def State.overrun (s : State) : State :=
  (s.modSched fun c => { c with overruns := saturate c.overruns, deferred := true }).raiseAll .overrun

/-- CYCLE_TIMER_EXPIRY (R26): a cycle starts, or an overrun is counted, or in STOPPING nothing (R23). In STOPPED the timer has no
expiries; that the event then changes nothing is the model's choice (log entry 2). -/
def execCycleTimerExpiry (s : State) : Host.Outcome State Fault Refusal :=
  (match s.sched.link with
    | .running => if s.sched.inCycle then s.overrun else s.startCycle
    | .stopping | .stopped => s).finish

end Sys2Proof.Machine
end

