-- ==== Sys2Proof/Machine/PartEvents.lean ====
section
/-! DEFINITION. The part's own events: PART_RESET, STORE_LOAD_DONE and CAPT_EDGE. -/

namespace Sys2Proof.Machine

/-- The cells after a reset cuts phase 2 of a save (R172, R175): those written so far hold the image, the one being
written may be left erased, no later one is written. -/
def cutBody (image old : List Byte) (cut : SaveCut) : List Byte :=
  let tail := old.drop (2 + cut.written)
  old.take 2 ++ (image.drop 2).take cut.written ++ if cut.torn then Config.erasedCell :: tail.drop 1 else tail

/-- The cells after a part reset (R175): those of the save it cuts, in its phase, as far as it had come. -/
def Store.cutCells (x : Store) (cut : SaveCut) : Memory :=
  match x.save with
  | none => x.cells
  | some v =>
    match v.phase with
    | .erase =>
      let m := if cut.erased0 then Memory.write x.cells 0 Config.erasedCell else x.cells
      if cut.erased1 then Memory.write m 1 Config.erasedCell else m
    | .body => Memory.ofBytes 0 (cutBody v.image (Memory.expand Config.storeSize 0 x.cells) cut)
    | .validation => if 1 ≤ cut.written then Memory.write x.cells 1 Config.validation1 else x.cells

/-- An SPI transport at part reset (R154): a transfer in progress is abandoned, and MISO is not driven. -/
def Spi.partReset (x : Spi) : Spi :=
  match x.phase with
  | .idle => ⟨.idle, none⟩
  | .operation | .address _ | .data _ _ | .void | .abandoned => ⟨.abandoned, none⟩

/-- PART_RESET (R166): every block takes its part-reset values (R17, R18, R39, R78, R93, R95, R133, R154, R160, R163), the
reset cause is recorded, ADDR is sampled (R139), a save is cut (R175), and LOADING begins. -/
def State.partReset (s : State) (cause : ResetCause) (addr : Level) (cut : SaveCut) : State :=
  { State.reset with
    spiA := s.spiA.partReset
    spiB := s.spiB.partReset
    i2c := { State.reset.i2c with addr := addr }
    store := ⟨s.store.cutCells cut, .defaulted, cause, .none, none⟩
    pins := { State.reset.pins with capt := s.pins.capt }
    pending := s.pending }

/-- Start-up from the end of the load to READY (R169, steps 2 to 6). -/
def State.startUp (s : State) : State :=
  let t := s.loadConfig
  let u := { t with roles := forcedRoles t.config.roles }
  let v := allSlots.foldl (fun x i => x.startUpEnable i) u
  let w := if v.config.autoStart then v.startLink else v
  { w with ready := true }

/-- Whether an edge to this level makes a PIN request (R118). -/
def PinEdge.selects (e : PinEdge) (level : Level) : Bool :=
  match e with
  | .off => false
  | .rising => level = .high
  | .falling => level = .low
  | .both => true

/-- PART_RESET. -/
def execPartReset (cause : ResetCause) (addr : Level) (cut : SaveCut) (s : State) : Host.Outcome State Fault Refusal :=
  (s.partReset cause addr cut).finish

/-- STORE_LOAD_DONE (R169): only in LOADING (log entry 2). -/
def execStoreLoadDone (s : State) : Host.Outcome State Fault Refusal :=
  (if s.ready then s else s.startUp).finish

/-- CAPT_EDGE (R118): the level now held; a selected edge makes a PIN capture request. The pin edge setting is read here, at the
end of the 1 µs hold: the model's choice between R117 and R118 (log entry 26). -/
def execCaptEdge (level : Level) (s : State) : Host.Outcome State Fault Refusal :=
  let t := { s with pins := { s.pins with capt := level } }
  (if t.config.pinEdge.selects level then t.takeCapture .pin else t).finish

end Sys2Proof.Machine
end

