-- ==== Sys2Proof/WellFormed.lean ====
section
/-! DEFINITION. Which terms of `Instr` are commands the part can be sent: the checks the operands' types do not make. -/

namespace Sys2Proof

/-- How far a save can have come in one phase: 1022 cells in phase 2 (R172). -/
def SaveCut.wellFormed (c : SaveCut) : Bool := c.written ≤ 1022

/-- A cell of phase 2 of a save (R172), the only cells SAVE_BODY_DONE reads back. -/
def bodyCell (c : Host.Cell) : Bool := 2 ≤ c.1 && c.1 < Config.storeSize

/-- A CMD code that names no command: 0x00, or 0x11 and above (R146). -/
def unknownCode (code : Byte) : Bool := code = 0 || 0x11 ≤ code.toNat

/-- Well-formed commands. Every other operand is any value of its type. -/
def Instr.wellFormed (i : Instr) : Bool :=
  match i with
  | .partReset _ _ cut => cut.wellFormed
  | .unknownCommand _ code => unknownCode code
  | .saveBodyDone misread => misread.all bodyCell
  | .storeLoadDone | .captEdge _ | .spiCsFall _ | .spiOperationByte _ _ | .spiAddressByte _ _ | .spiCsRise _
  | .i2cStart | .i2cTargetAddress _ _ | .i2cAddressByte _ | .i2cStop | .i2cReadNack
  | .guardMet | .guardTimeout | .requestSent | .responseTimeout _ | .replyByte _ _ | .idleTimeout _
  | .cycleTimerExpiry
  | .claim _ | .release _ | .revoke _ | .enable _ | .disable _ | .restart _ | .clearLatch _
  | .subscribe _ | .unsubscribe _ | .advance _ | .captureNow _ | .cancel _ | .portClear _
  | .linkStart _ | .linkStop _ | .saveConfig _ | .saveEraseDone | .saveComplete _ _
  | .takeSnapshot _ | .outputByteWrite _ _ | .commit _ _ | .descriptorStore _ _ | .dataByteStore _ _
  | .writeTrigger _ _ | .fetchTrigger _ | .windowFlagsWrite _ _ | .eventsWrite _ _ | .eventEnableWrite _ _
  | .portStatusWrite _ _ | .pageWrite _ _ | .ptrWrite _ _ | .dataAccess _ _
  | .bitRateWrite _ _ | .responseTimeoutWrite _ _ | .periodWrite _ _ | .acyclicAllowanceWrite _ _
  | .healthParameterWrite _ _ | .captureSettingWrite _ _ | .linkstatOptionsWrite _ _ | .rolesByteWrite _ _
  | .slotConfigWrite _ _ | .plainWrite _ _ | .replyStartBit _ | .guardRestart => true

end Sys2Proof
end

