-- ==== Sys2Proof/Machine/PortCommands.lean ====
section
/-! DEFINITION. The commands of the capture unit and the window unit, PORT_CLEAR, and codes that name no command
(07, 06, 8.7, 8.8). -/

namespace Sys2Proof.Machine

/-- The context of a port at its PORT_CLEAR, but for its claims, windows and subscription (R150, R77, R92, R160). READY
is not of this context, and SNAPSHOT goes with the snapshot. -/
def PortContext.portClear (c : PortContext) : PortContext :=
  { c with
    page := 0
    pointer := 0
    accessRefused := false
    stageDiscarded := false
    cmdOverrun := false
    snapshot := none
    events := 0
    enables := 0 }

/-- The command slot at PORT_CLEAR (R150): a command in progress is detached, its code kept in RES_DETAIL. -/
def CommandSlot.portClear (c : CommandSlot) : CommandSlot :=
  if c.inProgress then { c with code := portClearCode, inProgress := false, result := .none, detail := c.code }
  else { c with code := portClearCode, result := .done, detail := 0 }

/-- A save issued by the port is not to be reported to it (R150, R174). -/
def Save.portClear (p : Port) (v : Save) : Save := if v.issuer = p then { v with tell := false } else v

namespace State

/-- The answer to a code that names no command (R146, step 3). -/
def unknownAnswer (s : State) (code : Byte) : Answer := ⟨s, .unknownCommand, code⟩

/-- A command's RES_DETAIL that says whether something was done. -/
def whether (done : Bool) : Byte := Byte.bit done 0

/-- The capture unit's answer to SUBSCRIBE (R126). -/
def subscribeAnswer (s : State) (p : Port) : Answer := ⟨s.subscribe p, .done, whether (!(s.port p).cursor.isSome)⟩

/-- The capture unit's answer to UNSUBSCRIBE (R127). -/
def unsubscribeAnswer (s : State) (p : Port) : Answer := ⟨s.unsubscribe p, .done, whether (s.port p).cursor.isSome⟩

/-- The capture unit's answer to ADVANCE (R128). -/
def advanceAnswer (s : State) (p : Port) : Answer :=
  if !(s.port p).cursor.isSome then ⟨s, .refusedState, 0⟩
  else
    match s.recordAt p with
    | none => ⟨s, .empty, 0⟩
    | some r =>
      let t := s.advancePast p r
      ⟨t, .done, BitVec.ofNat 8 (t.port p).unread⟩

/-- The capture unit's answer to CAPTURE_NOW (R121). -/
def captureNowAnswer (s : State) (p : Port) : Answer := ⟨s.takeCapture (.command p), .done, s.captureFate.code⟩

/-- The window unit's answer to CANCEL (R112). -/
def cancelAnswer (s : State) (p : Port) : Answer :=
  match windowOf (s.command p).arg0 with
  | none => ⟨s, .badArg, badIndex⟩
  | some w =>
    let t := s.cancelWindow p w
    ⟨t, .done, (t.window p w).state.code⟩

/-- The configuration store at a port's clear (R150). -/
def clearSave (s : State) (p : Port) : State := { s with store := { s.store with save := s.store.save.map (·.portClear p) } }

/-- PORT_CLEAR (R150): every block that holds a part of the port context. The events and enables are cleared last, so no
flag is left set for anything done at the port clear. -/
def portClear (s : State) (p : Port) : State :=
  let t := (((((s.clearClaims p).clearWindows p).unsubscribe p).clearWaiter p).clearSave p).modCommand p (·.portClear)
  t.modPort p (·.portClear)

end State

/-- UNKNOWN_COMMAND (R146): a code that names no command; none other makes this event (log entry 1). -/
def execUnknownCommand (p : Port) (code : Byte) (s : State) : Host.Outcome State Fault Refusal :=
  (if unknownCode code then s.cmdWrite p code (·.unknownAnswer code) else s).finish

/-- SUBSCRIBE (R126): code 0x08. -/
def execSubscribe (p : Port) (s : State) : Host.Outcome State Fault Refusal :=
  (s.cmdWrite p 0x08 (·.subscribeAnswer p)).finish

/-- UNSUBSCRIBE (R127): code 0x09. -/
def execUnsubscribe (p : Port) (s : State) : Host.Outcome State Fault Refusal :=
  (s.cmdWrite p 0x09 (·.unsubscribeAnswer p)).finish

/-- ADVANCE (R128): code 0x0A. -/
def execAdvance (p : Port) (s : State) : Host.Outcome State Fault Refusal :=
  (s.cmdWrite p 0x0A (·.advanceAnswer p)).finish

/-- CAPTURE_NOW (R121): code 0x0B. -/
def execCaptureNow (p : Port) (s : State) : Host.Outcome State Fault Refusal :=
  (s.cmdWrite p 0x0B (·.captureNowAnswer p)).finish

/-- CANCEL (R112): code 0x0C. -/
def execCancel (p : Port) (s : State) : Host.Outcome State Fault Refusal :=
  (s.cmdWrite p 0x0C (·.cancelAnswer p)).finish

/-- PORT_CLEAR (R150): code 0x0D, taken in either state of the command slot. -/
def execPortClear (p : Port) (s : State) : Host.Outcome State Fault Refusal :=
  (s.writeAccess p portClearCode isCmd fun _ t => t.portClear p).finish

end Sys2Proof.Machine
end

