-- ==== Sys2Proof/Machine/PortWrites.lean ====
section
/-! DEFINITION. The byte accesses of a port's own page, of the process image and of the claim table: one row of the table
for each kind of location (8.1, 8.4, 8.6, 8.9, 6.1, 6.2, 4.7, 5.5, 5.6, 9.1). -/

namespace Sys2Proof.Machine

/-- PTR with one byte written (R144): bits 0 to 7, or bits 8 to 12 from the low five bits. -/
def PortContext.putPointer (high : Bool) (v : Byte) (c : PortContext) : PortContext :=
  if high then { c with pointer := v.setWidth 5 ++ (c.pointer.setWidth 8 : BitVec 8) }
  else { c with pointer := (c.pointer >>> 8).setWidth 5 ++ v }

/-- The write locations of PLAIN_WRITE: ARG0 to ARG2, and the read-only and unassigned ones (R145, R146, R97, R176, R178). -/
def Target.isPlain (t : Target) : Bool :=
  match t with
  | .page l =>
    match l with
    | .arg0 | .arg1 | .arg2 | .partCode | .revision | .portName | .role | .result | .detail | .linkState | .cycleLow
    | .cycleHigh | .health _ | .unassigned | .window _ .state | .window _ .cause | .window _ .detail
    | .window _ .unassigned => true
    | .status | .events | .enables | .cmd | .page | .pointerLow | .pointerHigh | .data | .window _ _ | .image _ => false
  | .image l =>
    match l with
    | .inputState _ | .inputByte _ _ | .commitCount _ | .outputLength _ | .health _ _ | .owner _ | .capture _
    | .linkStatus _ | .captureStatus _ | .identity _ | .unassigned => true
    | .output _ _ | .commit _ | .config _ _ | .setting _ => false

/-- The locations a descriptor store reaches (R96). -/
def Target.isDescriptor (t : Target) : Bool :=
  match t with
  | .page (.window _ f) => f.isDescriptor
  | .page _ => false
  | .image _ => false

/-- The locations of the image space. -/
def Target.isImage (t : Target) : Bool :=
  match t with
  | .image _ => true
  | .page _ => false

/-- The state byte of an input record (R75). -/
def Target.isInputState (t : Target) : Bool :=
  match t with
  | .image (.inputState _) => true
  | .image _ => false
  | .page _ => false

/-- An output byte (R87). -/
def Target.isOutput (t : Target) : Bool :=
  match t with
  | .image (.output _ _) => true
  | .image _ => false
  | .page _ => false

/-- A commit location (R89). -/
def Target.isCommit (t : Target) : Bool :=
  match t with
  | .image (.commit _) => true
  | .image _ => false
  | .page _ => false

/-- A data byte of a window (R99). -/
def Target.isWindowData (t : Target) : Bool :=
  match t with
  | .page (.window _ (.data _)) => true
  | .page _ => false
  | .image _ => false

/-- A window's flags location (R97). -/
def Target.isWindowFlags (t : Target) : Bool :=
  match t with
  | .page (.window _ .flags) => true
  | .page _ => false
  | .image _ => false

namespace State

/-- The port's transport stands at DATA (R144). -/
def atData (s : State) (p : Port) : Bool :=
  match s.transfer p with
  | some x => x.2 = dataAddress
  | none => false

/-- A store at this target is a WRITE trigger (R99, R100): a marked data byte of a window in WRITE mode. -/
def isWriteTrigger (s : State) (p : Port) (t : Target) : Bool :=
  match t with
  | .page (.window w (.data k)) => !(s.window p w).fetch && (s.window p w).mask.getLsbD k.val
  | .page _ => false
  | .image _ => false

/-- A read at this target is a FETCH trigger (R99, R101): data byte 0 of a window in FETCH mode. -/
def isFetchTrigger (s : State) (p : Port) (t : Target) : Bool :=
  match t with
  | .page (.window w (.data k)) => (s.window p w).fetch && k = 0
  | .page _ => false
  | .image _ => false

/-- A read at this target does nothing but return a byte. -/
def isPlainRead (s : State) (p : Port) (t : Target) : Bool := !t.isInputState && !s.isFetchTrigger p t

/-- What a write of `v` does to a window location that a row of its own covers. -/
def storeWindow (p : Port) (v : Byte) (t : Target) (s : State) : State :=
  match t with
  | .page (.window w (.data k)) => s.storeDataByte p w k v
  | .page (.window w .flags) => s.storeFlags p w v
  | .page (.window w f) => s.storeDescriptor p w f v
  | .page _ => s
  | .image _ => s

/-- What a write of `v` does at an image location (R136); nothing of it reaches the port page. -/
def storeImage (p : Port) (v : Byte) (t : Target) (s : State) : State :=
  match t with
  | .image l => s.writeImage p l v
  | .page _ => s

/-- What a write of `v` does at a location of PLAIN_WRITE. -/
def storePlain (p : Port) (v : Byte) (t : Target) (s : State) : State :=
  match t with
  | .page l => s.writePlainPage p l v
  | .image l => s.writeImage p l v

/-- A read access with the owner's value and effect. -/
def readAccess (s : State) (p : Port) (mine : Target → Bool) : State := s.access p .read mine (readValue p) (readEffect p)

/-- A write access that changes the port's own context. -/
def contextWrite (s : State) (p : Port) (v : Byte) (l : PageLocation) (f : PortContext → PortContext) : State :=
  s.writeAccess p v (fun t => t = .page l) fun _ t => t.modPort p f

end State

/-- TAKE_SNAPSHOT (R75): a read of a state byte. -/
def execTakeSnapshot (p : Port) (s : State) : Host.Outcome State Fault Refusal :=
  (s.readAccess p (·.isInputState)).finish

/-- OUTPUT_BYTE_WRITE (R87). -/
def execOutputByteWrite (p : Port) (v : Byte) (s : State) : Host.Outcome State Fault Refusal :=
  (s.writeAccess p v (·.isOutput) (State.storeImage p v)).finish

/-- COMMIT (R89): a write of any value to a commit location. -/
def execCommit (p : Port) (v : Byte) (s : State) : Host.Outcome State Fault Refusal :=
  (s.writeAccess p v (·.isCommit) (State.storeImage p v)).finish

/-- DESCRIPTOR_STORE (R96). -/
def execDescriptorStore (p : Port) (v : Byte) (s : State) : Host.Outcome State Fault Refusal :=
  (s.writeAccess p v (·.isDescriptor) (State.storeWindow p v)).finish

/-- DATA_BYTE_STORE (R99): a store to a data byte, which is a WRITE trigger too where the byte is marked in WRITE mode. -/
def execDataByteStore (p : Port) (v : Byte) (s : State) : Host.Outcome State Fault Refusal :=
  (s.writeAccess p v (·.isWindowData) (State.storeWindow p v)).finish

/-- WRITE_TRIGGER (R100): a store to a marked data byte of a window in WRITE mode. -/
def execWriteTrigger (p : Port) (v : Byte) (s : State) : Host.Outcome State Fault Refusal :=
  (s.writeAccess p v (s.isWriteTrigger p) (State.storeWindow p v)).finish

/-- FETCH_TRIGGER (R101): a read of data byte 0 of a window in FETCH mode. -/
def execFetchTrigger (p : Port) (s : State) : Host.Outcome State Fault Refusal :=
  (s.readAccess p (s.isFetchTrigger p)).finish

/-- WINDOW_FLAGS_WRITE (R97). -/
def execWindowFlagsWrite (p : Port) (v : Byte) (s : State) : Host.Outcome State Fault Refusal :=
  (s.writeAccess p v (·.isWindowFlags) (State.storeWindow p v)).finish

/-- EVENTS_WRITE (R156). -/
def execEventsWrite (p : Port) (v : Byte) (s : State) : Host.Outcome State Fault Refusal :=
  (s.contextWrite p v .events (·.clearEvents v)).finish

/-- EVENT_ENABLE_WRITE (R158). -/
def execEventEnableWrite (p : Port) (v : Byte) (s : State) : Host.Outcome State Fault Refusal :=
  (s.contextWrite p v .enables fun c => { c with enables := v }).finish

/-- PORT_STATUS_WRITE (R152). -/
def execPortStatusWrite (p : Port) (v : Byte) (s : State) : Host.Outcome State Fault Refusal :=
  (s.contextWrite p v .status (·.clearStatus v)).finish

/-- PAGE_WRITE (R143): the low six bits. -/
def execPageWrite (p : Port) (v : Byte) (s : State) : Host.Outcome State Fault Refusal :=
  (s.contextWrite p v .page fun c => { c with page := v.setWidth 6 }).finish

/-- What a write to a byte of PTR does (R144). -/
def State.storePointer (p : Port) (v : Byte) (t : Target) (s : State) : State :=
  s.modPort p (·.putPointer (t = .page .pointerHigh) v)

/-- PTR_WRITE (R144): one of PTR's two bytes. -/
def execPtrWrite (p : Port) (v : Byte) (s : State) : Host.Outcome State Fault Refusal :=
  (s.writeAccess p v (fun t => t = .page .pointerLow || t = .page .pointerHigh) (State.storePointer p v)).finish

/-- DATA_ACCESS (R144): a read or write of the image location in PTR, by its owner's rules, and PTR moves on. -/
def execDataAccess (p : Port) (access : Access) (s : State) : Host.Outcome State Fault Refusal :=
  (match access with
    | .read => s.readAccess p fun t => s.atData p && t.isImage
    | .write v => s.writeAccess p v (fun t => s.atData p && t.isImage) (State.storeImage p v)).finish

/-- PLAIN_WRITE (R145): a write to a plain, read-only or unassigned location; or a read that does nothing but return a
byte (log entry 13). -/
def execPlainWrite (p : Port) (access : Access) (s : State) : Host.Outcome State Fault Refusal :=
  (match access with
    | .read => s.readAccess p (s.isPlainRead p)
    | .write v => s.writeAccess p v (·.isPlain) (State.storePlain p v)).finish

end Sys2Proof.Machine
end

