-- ==== Sys2Proof/Machine/SettingWrites.lean ====
section
/-! DEFINITION. The writes to the global settings and to the slots' configuration (1.2, 2.2, 3.1, 3.2, 7.1, 9.4, 10.5). -/

namespace Sys2Proof.Machine

/-- The bytes of the global settings that `f` picks. -/
def Target.isSetting (f : Global → Bool) (t : Target) : Bool :=
  match t with
  | .image (.setting g) => f g
  | .image _ => false
  | .page _ => false

/-- A byte of a slot's configuration (R35). -/
def Target.isSlotConfig (t : Target) : Bool :=
  match t with
  | .image (.config _ _) => true
  | .image _ => false
  | .page _ => false

/-- A write to a setting that `f` picks, by its owner's rule (R136). -/
def State.settingAccess (s : State) (p : Port) (v : Byte) (f : Global → Bool) : State :=
  s.writeAccess p v (·.isSetting f) (State.storeImage p v)

/-- BIT_RATE_WRITE (R2): the bit rate code and auto-start. -/
def execBitRateWrite (p : Port) (v : Byte) (s : State) : Host.Outcome State Fault Refusal :=
  (s.settingAccess p v fun g => g = .bitRate).finish

/-- RESPONSE_TIMEOUT_WRITE (R3). -/
def execResponseTimeoutWrite (p : Port) (v : Byte) (s : State) : Host.Outcome State Fault Refusal :=
  (s.settingAccess p v fun g => g = .timeout).finish

/-- PERIOD_WRITE (R19). -/
def execPeriodWrite (p : Port) (v : Byte) (s : State) : Host.Outcome State Fault Refusal :=
  (s.settingAccess p v fun g => g = .period).finish

/-- ACYCLIC_ALLOWANCE_WRITE (R20). -/
def execAcyclicAllowanceWrite (p : Port) (v : Byte) (s : State) : Host.Outcome State Fault Refusal :=
  (s.settingAccess p v fun g => g = .allowance).finish

/-- HEALTH_PARAMETER_WRITE (R37): each of the six health parameters. -/
def execHealthParameterWrite (p : Port) (v : Byte) (s : State) : Host.Outcome State Fault Refusal :=
  (s.settingAccess p v (·.isHealth)).finish

/-- CAPTURE_SETTING_WRITE (R116): each byte of the four capture settings. -/
def execCaptureSettingWrite (p : Port) (v : Byte) (s : State) : Host.Outcome State Fault Refusal :=
  (s.settingAccess p v (·.isCapture)).finish

/-- LINKSTAT_OPTIONS_WRITE (R161). -/
def execLinkstatOptionsWrite (p : Port) (v : Byte) (s : State) : Host.Outcome State Fault Refusal :=
  (s.settingAccess p v fun g => g = .linkstat).finish

/-- ROLES_BYTE_WRITE (R170): the live roles byte, not the roles in force. -/
def execRolesByteWrite (p : Port) (v : Byte) (s : State) : Host.Outcome State Fault Refusal :=
  (s.settingAccess p v fun g => g = .roles).finish

/-- SLOT_CONFIG_WRITE (R35). -/
def execSlotConfigWrite (p : Port) (v : Byte) (s : State) : Host.Outcome State Fault Refusal :=
  (s.writeAccess p v (·.isSlotConfig) (State.storeImage p v)).finish

end Sys2Proof.Machine
end

