-- ==== Sys2Proof/Machine/Transport.lean ====
section
/-! DEFINITION. The transport events of the SPI ports and of Port C that are no byte access (8.2, 8.3). -/

namespace Sys2Proof.Machine

/-- SPI_CS_FALL (R137): a transfer begins, also after a part reset abandoned one (R154). -/
def Spi.csFall (x : Spi) : Spi :=
  match x.phase with
  | .idle => ⟨.operation, some 0⟩
  | .operation | .address _ | .data _ _ | .void | .abandoned => x

/-- The operation byte (R137): 0x01 write, 0x02 read, any other makes the rest of the transfer void. -/
def Spi.operationByte (v : Byte) (x : Spi) : Spi :=
  match x.phase with
  | .operation => ⟨if v = 0x01 then .address true else if v = 0x02 then .address false else .void, some 0⟩
  | .idle | .address _ | .data _ _ | .void | .abandoned => x

/-- The address byte (R137): the port-page address of the first access. -/
def Spi.addressByte (v : Byte) (x : Spi) : Spi :=
  match x.phase with
  | .address w => ⟨.data w v, some 0⟩
  | .idle | .operation | .data _ _ | .void | .abandoned => x

/-- CS rises (R137): the transfer ends, an incomplete byte is not taken, and MISO is not driven. -/
def Spi.csRise (_x : Spi) : Spi := ⟨.idle, none⟩

/-- Port C's own target address (R139). -/
def I2c.ownTarget (x : I2c) : BitVec 7 :=
  match x.addr with
  | .low => Config.targetLow
  | .high => Config.targetHigh

/-- A start or repeated start condition (R139): a partial byte is discarded, and the target address is awaited. -/
def I2c.start (x : I2c) : I2c := { x with phase := .target, sda := none, ack := false }

/-- A target address with its direction (R139, R140): the port acknowledges its own, in LOADING too, and ignores the bus
after any other. -/
def I2c.targetAddress (t : BitVec 7) (read : Bool) (x : I2c) : I2c :=
  match x.phase with
  | .target =>
    if t = x.ownTarget then { x with phase := if read then .reading else .firstByte, sda := none, ack := true }
    else { x with phase := .idle, sda := none, ack := false }
  | .idle | .firstByte | .writing | .reading => x

/-- The first byte of a write transaction (R139): the current address; no access is made. -/
def I2c.addressByte (v : Byte) (x : I2c) : I2c :=
  match x.phase with
  | .firstByte => { x with phase := .writing, current := v, sda := none, ack := true }
  | .idle | .target | .writing | .reading => x

/-- A stop condition (R139): the transaction ends; the current address is kept. -/
def I2c.stop (x : I2c) : I2c := { x with phase := .idle, sda := none, ack := false }

/-- The controller does not acknowledge a read byte (R140): nothing more until the next start condition. -/
def I2c.nack (x : I2c) : I2c :=
  match x.phase with
  | .reading => { x with phase := .idle, sda := none, ack := false }
  | .idle | .target | .firstByte | .writing => x

/-- SPI_CS_FALL. -/
def execSpiCsFall (p : SpiPort) (s : State) : Host.Outcome State Fault Refusal :=
  (s.setSpi p (s.spi p).csFall).finish

/-- SPI_OPERATION_BYTE. -/
def execSpiOperationByte (p : SpiPort) (v : Byte) (s : State) : Host.Outcome State Fault Refusal :=
  (s.setSpi p ((s.spi p).operationByte v)).finish

/-- SPI_ADDRESS_BYTE. -/
def execSpiAddressByte (p : SpiPort) (v : Byte) (s : State) : Host.Outcome State Fault Refusal :=
  (s.setSpi p ((s.spi p).addressByte v)).finish

/-- SPI_CS_RISE. -/
def execSpiCsRise (p : SpiPort) (s : State) : Host.Outcome State Fault Refusal :=
  (s.setSpi p (s.spi p).csRise).finish

/-- I2C_START. -/
def execI2cStart (s : State) : Host.Outcome State Fault Refusal :=
  { s with i2c := s.i2c.start }.finish

/-- I2C_TARGET_ADDRESS. -/
def execI2cTargetAddress (target : BitVec 7) (read : Bool) (s : State) : Host.Outcome State Fault Refusal :=
  { s with i2c := s.i2c.targetAddress target read }.finish

/-- I2C_ADDRESS_BYTE. -/
def execI2cAddressByte (v : Byte) (s : State) : Host.Outcome State Fault Refusal :=
  { s with i2c := s.i2c.addressByte v }.finish

/-- I2C_STOP. -/
def execI2cStop (s : State) : Host.Outcome State Fault Refusal :=
  { s with i2c := s.i2c.stop }.finish

/-- I2C_READ_NACK. -/
def execI2cReadNack (s : State) : Host.Outcome State Fault Refusal :=
  { s with i2c := s.i2c.nack }.finish

end Sys2Proof.Machine
end

