-- ==== Sys2Proof/Machine/Dispatch.lean ====
section
/-! DEFINITION. The meaning of each command: one arm for each row of spec/opcode_table.json, each one call. -/

namespace Sys2Proof.Machine

def exec (i : Instr) (s : State) : Host.Outcome State Fault Refusal :=
  match i with
  | .partReset cause addr cut => Sys2Proof.Machine.execPartReset cause addr cut s
  | .storeLoadDone => Sys2Proof.Machine.execStoreLoadDone s
  | .captEdge level => Sys2Proof.Machine.execCaptEdge level s
  | .spiCsFall p => Sys2Proof.Machine.execSpiCsFall p s
  | .spiOperationByte p v => Sys2Proof.Machine.execSpiOperationByte p v s
  | .spiAddressByte p v => Sys2Proof.Machine.execSpiAddressByte p v s
  | .spiCsRise p => Sys2Proof.Machine.execSpiCsRise p s
  | .i2cStart => Sys2Proof.Machine.execI2cStart s
  | .i2cTargetAddress target read => Sys2Proof.Machine.execI2cTargetAddress target read s
  | .i2cAddressByte v => Sys2Proof.Machine.execI2cAddressByte v s
  | .i2cStop => Sys2Proof.Machine.execI2cStop s
  | .i2cReadNack => Sys2Proof.Machine.execI2cReadNack s
  | .guardMet => Sys2Proof.Machine.execGuardMet s
  | .guardTimeout => Sys2Proof.Machine.execGuardTimeout s
  | .requestSent => Sys2Proof.Machine.execRequestSent s
  | .responseTimeout line => Sys2Proof.Machine.execResponseTimeout line s
  | .replyByte v stop => Sys2Proof.Machine.execReplyByte v stop s
  | .idleTimeout line => Sys2Proof.Machine.execIdleTimeout line s
  | .cycleTimerExpiry => Sys2Proof.Machine.execCycleTimerExpiry s
  | .unknownCommand p code => Sys2Proof.Machine.execUnknownCommand p code s
  | .claim p => Sys2Proof.Machine.execClaim p s
  | .release p => Sys2Proof.Machine.execRelease p s
  | .revoke p => Sys2Proof.Machine.execRevoke p s
  | .enable p => Sys2Proof.Machine.execEnable p s
  | .disable p => Sys2Proof.Machine.execDisable p s
  | .restart p => Sys2Proof.Machine.execRestart p s
  | .clearLatch p => Sys2Proof.Machine.execClearLatch p s
  | .subscribe p => Sys2Proof.Machine.execSubscribe p s
  | .unsubscribe p => Sys2Proof.Machine.execUnsubscribe p s
  | .advance p => Sys2Proof.Machine.execAdvance p s
  | .captureNow p => Sys2Proof.Machine.execCaptureNow p s
  | .cancel p => Sys2Proof.Machine.execCancel p s
  | .portClear p => Sys2Proof.Machine.execPortClear p s
  | .linkStart p => Sys2Proof.Machine.execLinkStart p s
  | .linkStop p => Sys2Proof.Machine.execLinkStop p s
  | .saveConfig p => Sys2Proof.Machine.execSaveConfig p s
  | .saveEraseDone => Sys2Proof.Machine.execSaveEraseDone s
  | .saveBodyDone misread => Sys2Proof.Machine.execSaveBodyDone misread s
  | .saveComplete cell1 cell0 => Sys2Proof.Machine.execSaveComplete cell1 cell0 s
  | .takeSnapshot p => Sys2Proof.Machine.execTakeSnapshot p s
  | .outputByteWrite p v => Sys2Proof.Machine.execOutputByteWrite p v s
  | .commit p v => Sys2Proof.Machine.execCommit p v s
  | .descriptorStore p v => Sys2Proof.Machine.execDescriptorStore p v s
  | .dataByteStore p v => Sys2Proof.Machine.execDataByteStore p v s
  | .writeTrigger p v => Sys2Proof.Machine.execWriteTrigger p v s
  | .fetchTrigger p => Sys2Proof.Machine.execFetchTrigger p s
  | .windowFlagsWrite p v => Sys2Proof.Machine.execWindowFlagsWrite p v s
  | .eventsWrite p v => Sys2Proof.Machine.execEventsWrite p v s
  | .eventEnableWrite p v => Sys2Proof.Machine.execEventEnableWrite p v s
  | .portStatusWrite p v => Sys2Proof.Machine.execPortStatusWrite p v s
  | .pageWrite p v => Sys2Proof.Machine.execPageWrite p v s
  | .ptrWrite p v => Sys2Proof.Machine.execPtrWrite p v s
  | .dataAccess p access => Sys2Proof.Machine.execDataAccess p access s
  | .bitRateWrite p v => Sys2Proof.Machine.execBitRateWrite p v s
  | .responseTimeoutWrite p v => Sys2Proof.Machine.execResponseTimeoutWrite p v s
  | .periodWrite p v => Sys2Proof.Machine.execPeriodWrite p v s
  | .acyclicAllowanceWrite p v => Sys2Proof.Machine.execAcyclicAllowanceWrite p v s
  | .healthParameterWrite p v => Sys2Proof.Machine.execHealthParameterWrite p v s
  | .captureSettingWrite p v => Sys2Proof.Machine.execCaptureSettingWrite p v s
  | .linkstatOptionsWrite p v => Sys2Proof.Machine.execLinkstatOptionsWrite p v s
  | .rolesByteWrite p v => Sys2Proof.Machine.execRolesByteWrite p v s
  | .slotConfigWrite p v => Sys2Proof.Machine.execSlotConfigWrite p v s
  | .plainWrite p access => Sys2Proof.Machine.execPlainWrite p access s
  | .replyStartBit middle => Sys2Proof.Machine.execReplyStartBit middle s
  | .guardRestart => Sys2Proof.Machine.execGuardRestart s

end Sys2Proof.Machine
end

