-- ==== Sys2Proof/Safety.lean ====
section
/-! DEFINITION. What counts as a safe run, and the words the statements are made of: where a port's transport stands, what
an access and a command leave beside their owner's effect, and the invariants. -/

namespace Sys2Proof

/-- The access a command is, if it is one: its port, and a read or the byte written (R136). A command of the command slot is
the write of its code to CMD (R146). -/
def Instr.access (i : Instr) : Option (Port × Access) :=
  match i with
  | .unknownCommand p code => some (p, .write code)
  | .claim p => some (p, .write 0x01)
  | .release p => some (p, .write 0x02)
  | .revoke p => some (p, .write 0x03)
  | .enable p => some (p, .write 0x04)
  | .disable p => some (p, .write 0x05)
  | .restart p => some (p, .write 0x06)
  | .clearLatch p => some (p, .write 0x07)
  | .subscribe p => some (p, .write 0x08)
  | .unsubscribe p => some (p, .write 0x09)
  | .advance p => some (p, .write 0x0A)
  | .captureNow p => some (p, .write 0x0B)
  | .cancel p => some (p, .write 0x0C)
  | .portClear p => some (p, .write 0x0D)
  | .linkStart p => some (p, .write 0x0E)
  | .linkStop p => some (p, .write 0x0F)
  | .saveConfig p => some (p, .write 0x10)
  | .takeSnapshot p | .fetchTrigger p => some (p, .read)
  | .outputByteWrite p v | .commit p v | .descriptorStore p v | .dataByteStore p v | .writeTrigger p v
  | .windowFlagsWrite p v | .eventsWrite p v | .eventEnableWrite p v | .portStatusWrite p v | .pageWrite p v
  | .ptrWrite p v | .bitRateWrite p v | .responseTimeoutWrite p v | .periodWrite p v | .acyclicAllowanceWrite p v
  | .healthParameterWrite p v | .captureSettingWrite p v | .linkstatOptionsWrite p v | .rolesByteWrite p v
  | .slotConfigWrite p v => some (p, .write v)
  | .dataAccess p x | .plainWrite p x => some (p, x)
  | .partReset _ _ _ | .storeLoadDone | .captEdge _ | .spiCsFall _ | .spiOperationByte _ _ | .spiAddressByte _ _
  | .spiCsRise _ | .i2cStart | .i2cTargetAddress _ _ | .i2cAddressByte _ | .i2cStop | .i2cReadNack
  | .guardMet | .guardTimeout | .requestSent | .responseTimeout _ | .replyByte _ _ | .idleTimeout _
  | .cycleTimerExpiry | .saveEraseDone | .saveBodyDone _ | .saveComplete _ _ | .replyStartBit _ | .guardRestart => none

/-- A write of CMD other than PORT_CLEAR (R148): its port. -/
def Instr.commandOf (i : Instr) : Option Port :=
  match i with
  | .unknownCommand p _ | .claim p | .release p | .revoke p | .enable p | .disable p | .restart p | .clearLatch p
  | .subscribe p | .unsubscribe p | .advance p | .captureNow p | .cancel p | .linkStart p | .linkStop p
  | .saveConfig p => some p
  | .partReset _ _ _ | .storeLoadDone | .captEdge _ | .spiCsFall _ | .spiOperationByte _ _ | .spiAddressByte _ _
  | .spiCsRise _ | .i2cStart | .i2cTargetAddress _ _ | .i2cAddressByte _ | .i2cStop | .i2cReadNack
  | .guardMet | .guardTimeout | .requestSent | .responseTimeout _ | .replyByte _ _ | .idleTimeout _
  | .cycleTimerExpiry | .portClear _ | .saveEraseDone | .saveBodyDone _ | .saveComplete _ _
  | .takeSnapshot _ | .outputByteWrite _ _ | .commit _ _ | .descriptorStore _ _ | .dataByteStore _ _
  | .writeTrigger _ _ | .fetchTrigger _ | .windowFlagsWrite _ _ | .eventsWrite _ _ | .eventEnableWrite _ _
  | .portStatusWrite _ _ | .pageWrite _ _ | .ptrWrite _ _ | .dataAccess _ _
  | .bitRateWrite _ _ | .responseTimeoutWrite _ _ | .periodWrite _ _ | .acyclicAllowanceWrite _ _
  | .healthParameterWrite _ _ | .captureSettingWrite _ _ | .linkstatOptionsWrite _ _ | .rolesByteWrite _ _
  | .slotConfigWrite _ _ | .plainWrite _ _ | .replyStartBit _ | .guardRestart => none

namespace Machine

/-- The step from `s` answers a next state. -/
def State.Runs (s : State) : Prop := ∃ t, step s = .next t

namespace State

/-- The location `t` is one that the row of the access `i` of port `p` takes (log entry 1): the test its meaning gives
State.access. -/
def rowTakes (s : State) (p : Port) (i : Instr) (t : Target) : Bool :=
  match i with
  | .unknownCommand _ code => unknownCode code && t = .page .cmd
  | .claim _ | .release _ | .revoke _ | .enable _ | .disable _ | .restart _ | .clearLatch _ | .subscribe _
  | .unsubscribe _ | .advance _ | .captureNow _ | .cancel _ | .portClear _ | .linkStart _ | .linkStop _
  | .saveConfig _ => t = .page .cmd
  | .takeSnapshot _ => t.isInputState
  | .outputByteWrite _ _ => t.isOutput
  | .commit _ _ => t.isCommit
  | .descriptorStore _ _ => t.isDescriptor
  | .dataByteStore _ _ => t.isWindowData
  | .writeTrigger _ _ => s.isWriteTrigger p t
  | .fetchTrigger _ => s.isFetchTrigger p t
  | .windowFlagsWrite _ _ => t.isWindowFlags
  | .eventsWrite _ _ => t = .page .events
  | .eventEnableWrite _ _ => t = .page .enables
  | .portStatusWrite _ _ => t = .page .status
  | .pageWrite _ _ => t = .page .page
  | .ptrWrite _ _ => t = .page .pointerLow || t = .page .pointerHigh
  | .dataAccess _ _ => s.atData p && t.isImage
  | .bitRateWrite _ _ => t.isSetting fun g => g = .bitRate
  | .responseTimeoutWrite _ _ => t.isSetting fun g => g = .timeout
  | .periodWrite _ _ => t.isSetting fun g => g = .period
  | .acyclicAllowanceWrite _ _ => t.isSetting fun g => g = .allowance
  | .healthParameterWrite _ _ => t.isSetting (·.isHealth)
  | .captureSettingWrite _ _ => t.isSetting (·.isCapture)
  | .linkstatOptionsWrite _ _ => t.isSetting fun g => g = .linkstat
  | .rolesByteWrite _ _ => t.isSetting fun g => g = .roles
  | .slotConfigWrite _ _ => t.isSlotConfig
  | .plainWrite _ .read => s.isPlainRead p t
  | .plainWrite _ (.write _) => t.isPlain
  | .partReset _ _ _ | .storeLoadDone | .captEdge _ | .spiCsFall _ | .spiOperationByte _ _ | .spiAddressByte _ _
  | .spiCsRise _ | .i2cStart | .i2cTargetAddress _ _ | .i2cAddressByte _ | .i2cStop | .i2cReadNack
  | .guardMet | .guardTimeout | .requestSent | .responseTimeout _ | .replyByte _ _ | .idleTimeout _
  | .cycleTimerExpiry | .saveEraseDone | .saveBodyDone _ | .saveComplete _ _ | .replyStartBit _ | .guardRestart => false

/-- Start-up is over, and port `p`'s transport stands at port-page address `a` in a write transfer (`w`) or a read transfer:
its next byte is an access there (R137, R139, R140, R153). -/
def Stands (s : State) (p : Port) (w : Bool) (a : Byte) : Prop := s.ready = true ∧ s.transfer p = some (w, a)

/-- Port `p`'s transport once it has carried one data byte at `a`: its address one on, from 0xFF to 0x00, but not from DATA (R141).
An SPI port drives MISO with the byte read, or with 0x00 for a byte written (R137). Port C drives SDA with the byte read, or
releases it and acknowledges the byte written (R139, R140). -/
def byteCarried (s : State) (p : Port) (w : Bool) (a : Byte) (r : Byte) : State :=
  let next := if a = 0x13 then a else a + 1
  match p with
  | .a => { s with spiA := ⟨.data w next, some (if w then 0 else r)⟩ }
  | .b => { s with spiB := ⟨.data w next, some (if w then 0 else r)⟩ }
  | .c => { s with i2c := { s.i2c with current := next, sda := if w then none else some r, ack := w } }

/-- What an access at `a` leaves beside its owner's effect: PTR moves on at DATA (R144), the transport has carried the byte, which
is `r` when it is a read, and the levels are derived again. -/
def accessDone (s : State) (p : Port) (w : Bool) (a : Byte) (r : Byte) : State :=
  ((if a = 0x13 then s.modPort p fun c => { c with pointer := c.pointer + 1 } else s).byteCarried p w a r).settle

/-- Port `p` can issue a command: its transport stands at CMD in a write transfer and its command slot is IDLE. -/
def CanCommand (s : State) (p : Port) : Prop := s.Stands p true 0x08 ∧ (s.command p).inProgress = false

/-- What a write of CMD leaves beside its owner's effect: CMD, RES and RES_DETAIL (R146), and the access itself. -/
def commandDone (s : State) (p : Port) (code : Byte) (r : Result) (detail : Byte) : State :=
  (s.modCommand p fun c =>
    { c with code := code, result := r, detail := detail, inProgress := r = .inProgress }).accessDone p true 0x08 0

/-- The slot that ARG0 names (R147). -/
def NamesSlot (s : State) (p : Port) (i : Fin 16) : Prop := (s.command p).arg0.toNat = i.val

/-- A capture request that is lost (R123, step 3): its number is consumed, the lost counter rises to at most 255, and
CAPTURE_LOST is set in every subscribed port. -/
def captureLostOnce (s : State) : State :=
  { s.modPorts fun c => { c with events := if c.cursor = none then c.events else c.events ||| 0x02 } with
    capture :=
      { s.capture with
        sequence := s.capture.sequence + 1
        lost := if s.capture.lost = 0xFF then 0xFF else s.capture.lost + 1 } }

/-- The record of a capture taken now (R122): an entry for each slot of the capture slot set, lowest slot first. -/
def recordNow (s : State) (x : Source) : CaptureRecord where
  sequence := s.capture.sequence
  source := x
  cycle := s.sched.cycle
  lostBefore := s.capture.lost
  entries := ((List.finRange 16).filter fun i => s.config.captureSet.getLsbD i.val).map fun i =>
    ⟨i, (s.slot i).input.state, (s.slot i).input.err, (s.slot i).input.warn, (s.slot i).input.evt,
      (s.slot i).input.generation, (s.slot i).input.age, (s.slot i).config.inputLength, (s.slot i).input.data⟩

/-- A capture request that is recorded (R123, step 4): the record is the ring's newest, unread by every subscribed port. -/
def captureRecordedOnce (s : State) (x : Source) : State :=
  { s.modPorts fun c => { c with cursor := c.cursor.map fun k => { k with unread := k.unread + 1 } } with
    capture := ⟨s.capture.ring ++ [s.recordNow x], s.capture.sequence + 1, 0⟩ }

/-- Some port is subscribed. -/
def HasSubscriber (s : State) : Prop := ∃ p, (s.port p).cursor ≠ none

/-- The slots that get a plan entry in the cycle with this number (R27's table), in slot order. -/
def dueSlots (s : State) (cycle : Half) : List (Fin 16) :=
  (List.finRange 16).filter fun i =>
    ((s.slot i).health.state = .active ∧ (cycle.toNat + i.val) % (s.slot i).config.pollDivider.toNat = 0) ∨
      (s.slot i).health.state = .suspect ∨ (s.slot i).health.state = .probing

/-- The cycle with number `cycle + 1` has started: the plan less its first entry, the allowance copied, the acyclic count 0
(R27). -/
def cycleStarted (s : State) (rest : List (Fin 16)) : State :=
  s.modSched fun c =>
    { c with
      cycle := c.cycle + 1, plan := rest, acyclic := 0, allowance := s.config.allowance.toNat, inCycle := true }

/-- A request handed to the engine (R4): begun at once in READY, kept pending in QUIET. -/
def handedOver (s : State) (k : Kind) (i : Fin 16) : State :=
  if s.engine = .ready then { s with engine := .sending (s.newExchange k i), handed := none }
  else { s with handed := some ⟨k, i⟩ }

/-- The kind a planned slot in this health state is served with at its turn (R28): IDENT in PROBING, CYCLIC otherwise. -/
def kindFor (h : HealthState) : Kind := if h = .probing then .ident else .cyclic

/-- A capture request of source `x` gives `t` (R123): dropped, lost or recorded. -/
def CaptureGives (s : State) (x : Source) (t : State) : Prop :=
  (¬s.HasSubscriber → t = s) ∧
    (s.HasSubscriber →
      (8 ≤ s.capture.ring.length → t = s.captureLostOnce) ∧
      (s.capture.ring.length < 8 → t = s.captureRecordedOnce x))

/-- The plan fixed and the counts set at a cycle start whose number is already counted (R27, steps 3 to 5). -/
def planFixed (s : State) : State :=
  s.modSched fun c =>
    { c with
      plan := s.dueSlots s.sched.cycle, acyclic := 0, allowance := s.config.allowance.toNat, inCycle := true }

/-- A cycle start gives `t` just before its first turn (R27): the number, the TIMER capture (R119), the plan. -/
def CycleBegins (s t : State) : Prop :=
  ∃ u v, u = (s.modSched fun c => { c with cycle := c.cycle + 1 }) ∧ t = v.planFixed ∧
    (s.config.timerDivider = 0 ∨ u.sched.cycle.toNat % s.config.timerDivider.toNat ≠ 0 → v = u) ∧
    (s.config.timerDivider ≠ 0 → u.sched.cycle.toNat % s.config.timerDivider.toNat = 0 → u.CaptureGives .timer v)

/-- Slot `i` is served at its turn (R28): it is ACTIVE, SUSPECT or PROBING. -/
def Served (s : State) (i : Fin 16) : Prop :=
  (s.slot i).health.state = .active ∨ (s.slot i).health.state = .suspect ∨ (s.slot i).health.state = .probing

/-- The queue's head `r` is taken in the acyclic part (R30, R105): it is the record out, its window is IN_FLIGHT, the acyclic
count is one on and its READ or WRITE is handed over; `rest` stays queued. -/
def headTaken (s : State) (r : Request) (rest : List Request) : State :=
  ((({ s with queue := rest, out := some r } : State).modWindow r.port r.window fun w =>
      { w with state := .inFlight, cause := .none, detail := 0 }).modSched fun c =>
      { c with plan := [], acyclic := c.acyclic + 1 }).handedOver r.kind.kind r.slot

/-- SLOT_CHANGE's mask where some backoff runs out at a cycle end (R40, R52). -/
def backoffFlag (s : State) : Byte :=
  if (∃ i : Fin 16, (s.slot i).health.state = .backoff ∧ (s.slot i).health.backoff ≤ 1) then 0x08 else 0

/-- The cycle has ended (R32): the cycle-end work on every slot, SLOT_CHANGE where a backoff has run out, the toggle phase
turned over, no cycle in progress. -/
def cycleEnded (s : State) : State :=
  { ((s.modSlots (·.cycleEnd s.config.staleLimit)).modSched fun c => { c with inCycle := false, plan := [] }).modPorts
      fun c => { c with events := c.events ||| s.backoffFlag } with
    phase := !s.phase }

/-- A turn gives `t`, where `start u t` says what the deferred start from `u` gives. One case applies (R28, R30, R32, R33):
the first planned entry whose slot is served; else the queue's head while the allowance copy leaves room; else the cycle's
end, and the deferred start if one is held. -/
def TurnGivesBy (start : State → State → Prop) (s t : State) : Prop :=
  (∀ skipped j rest, s.sched.plan = skipped ++ j :: rest → (∀ i ∈ skipped, ¬s.Served i) → s.Served j →
      t = (s.modSched fun c => { c with plan := rest }).handedOver (kindFor (s.slot j).health.state) j) ∧
    ((∀ i ∈ s.sched.plan, ¬s.Served i) →
      (∀ r rest, s.queue = r :: rest → s.sched.acyclic < s.sched.allowance → t = s.headTaken r rest) ∧
      (s.queue = [] ∨ s.sched.allowance ≤ s.sched.acyclic →
        (s.sched.deferred = false → t = s.cycleEnded) ∧
        (s.sched.deferred = true → start (s.cycleEnded.modSched fun c => { c with deferred := false }) t)))

/-- The next turn of the cycle gives `t` (R28, R30, R32, R33). A deferred start's own first turn can hold no deferred start
again. -/
def TurnGives (s t : State) : Prop :=
  s.TurnGivesBy (fun u t => ∃ v, u.CycleBegins v ∧ v.TurnGivesBy (fun _ _ => False) t) t

/-- A cycle start gives `t` (R27): all five steps, the first turn among them. -/
def CycleStarts (s t : State) : Prop := ∃ v, s.CycleBegins v ∧ v.TurnGives t

/-- The link has entered RUNNING, and no cycle has started yet (R21, R34). -/
def linkRunning (s : State) : State :=
  (s.modSched fun c => { c with link := .running, timer := some (125 * s.config.period.toNat) }).modPorts fun c =>
    { c with events := c.events ||| 0x80 }

/-- The link has entered STOPPED (R25), but for what becomes of the requests: the slots (R56), the records (R70), the cycle,
the timer, the toggle phase, LINK_CHANGE, and SLOT_CHANGE where a health state changes. -/
def linkStopped (s : State) : State :=
  { ((s.modSlots fun x =>
        { x with
          health :=
            if x.health.state = .disabled ∨ x.health.state = .lockedOut then x.health
            else { x.health with
              state := .probing, round := .first, quick := 0, rounds := 0, consecutive := 0, backoff := 0 }
          input :=
            { x.input with
              state := if x.input.state = .fresh ∨ x.input.state = .stale then .lost else x.input.state
              updated := false } }).modPorts fun c =>
        { c with events := c.events ||| (if (∃ i : Fin 16, (s.slot i).health.state = .active ∨
            (s.slot i).health.state = .suspect ∨ (s.slot i).health.state = .backoff) then 0x88 else 0x80) }).modSched
      fun c =>
        { c with link := .stopped, timer := none, inCycle := false, plan := [], acyclic := 0, deferred := false } with
    phase := false }

/-- The requests that `gone` picks have left the queue, and their windows have failed with `c` and WINDOW_DONE (R98, R103,
R110, R111). -/
def requestsRemoved (s : State) (gone : Request → Bool) (c : Cause) : State :=
  let left (p : Port) : PortContext :=
    { s.port p with
      windows := Vector.ofFn fun w : Fin 4 =>
        if s.queue.any fun r => gone r && r.port = p && r.window = w then
          { s.window p w with state := .failed, cause := c, detail := 0 }
        else s.window p w
      events := (s.port p).events ||| if s.queue.any fun r => gone r && r.port = p then 0x04 else 0 }
  { s with queue := s.queue.filter fun r => !gone r, ports := ⟨left .a, left .b, left .c⟩ }

/-- The window of the record `r` out fails with `c` and WINDOW_DONE, and the record is dropped (R98, R106). -/
def outFailed (s : State) (r : Request) (c : Cause) (detail : Byte) : State :=
  (({ s with out := none } : State).modWindow r.port r.window fun w =>
    { w with state := .failed, cause := c, detail := detail }).modPort r.port
    fun y => { y with events := y.events ||| 0x04 }

/-- The window of the record `r` out becomes IDLE with no flag, as its port's clear wants, and the record is dropped (R106,
R113). -/
def outCleared (s : State) (r : Request) : State :=
  ({ s with out := none } : State).modWindow r.port r.window fun w =>
    { w with state := .idle, cause := .none, detail := 0, clearMark := false }

/-- The record out is withdrawn, or its report comes under the discard mark, with `c` for a window that is still IN_FLIGHT: its
end gives `t` (R106's table). -/
def OutEnds (s : State) (c : Cause) (t : State) : Prop :=
  ∀ r, s.out = some r →
    ((s.window r.port r.window).state = .inFlight → t = s.outFailed r c 0) ∧
    ((s.window r.port r.window).state = .cancelling →
      ((s.window r.port r.window).clearMark = false → t = s.outFailed r .cancelled 0) ∧
      ((s.window r.port r.window).clearMark = true → t = s.outCleared r))

/-- A request of kind `k` pending at the engine is withdrawn, with `c` for a window that is still IN_FLIGHT: that gives `t`
(R25, R29, R106). A CYCLIC or IDENT is dropped. -/
def WithdrawnGives (s : State) (k : Kind) (c : Cause) (t : State) : Prop :=
  (k = .cyclic ∨ k = .ident → t = { s with handed := none }) ∧
    (k = .read ∨ k = .write → ({ s with handed := none } : State).OutEnds c t)

/-- A report is a loss of the slot: ACTIVE or SUSPECT to BACKOFF (R51). -/
def lossTo (before after : Health) : Bool :=
  (before.state = .active || before.state = .suspect) && after.state = .backoff

/-- Slot `i` with the health part `h` its report leaves (R40, R51): SLOT_CHANGE in every port if the health state changes; at a
loss the input record is LOST and the slot's queued requests fail with SLOT_LEFT. -/
def healthTaken (s : State) (i : Fin 16) (h : Health) : State :=
  let t := (s.modSlot i fun x =>
      { x with
        health := h
        input := if lossTo x.health h then { x.input with state := .lost } else x.input }).modPorts fun c =>
      { c with events := c.events ||| if h.state = (s.slot i).health.state then 0 else 0x08 }
  if lossTo (s.slot i).health h then t.requestsRemoved (fun r => r.slot = i) .slotLeft else t

/-- The report of exchange `x` is decided and taken as evidence of its slot's health (R16, R31, R41): the engine is QUIET, its
guard in the exchange's bit rate. -/
def evidenceTaken (s : State) (x : Exchange) (d : Decision) : State :=
  ({ s with engine := .quiet x.rate .quietEntry } : State).healthTaken x.slot
    ((s.slot x.slot).health.report (s.slot x.slot).config s.config x.kind d)

/-- The input record of a slot once a good cyclic reply has been applied to it (R63, R64). -/
def recordUpdated (s : State) (i : Fin 16) (y : Reply) : State :=
  s.modSlot i fun x =>
    { x with input :=
      { state := .fresh
        err := if x.config.errLatch then y.err || x.input.err else y.err
        warn := y.warn
        evt := y.evt
        generation := x.input.generation + 1
        age := 0
        data := Vector.ofFn fun k : Fin 16 => if k.val < x.config.inputLength.toNat then y.payload.getD k.val 0 else 0
        updated := true } }

/-- A good cyclic reply at the process image gives `t` (R63, R65, R120): the record of an ACTIVE or SUSPECT slot is updated, and
a STATION capture follows where the reply has EVT and the slot is in the event-source set. -/
def ImageGives (s : State) (i : Fin 16) (y : Reply) (t : State) : Prop :=
  ((s.slot i).health.state ≠ .active → (s.slot i).health.state ≠ .suspect → t = s) ∧
    ((s.slot i).health.state = .active ∨ (s.slot i).health.state = .suspect →
      (y.evt = false ∨ s.config.eventSet.getLsbD i.val = false → t = s.recordUpdated i y) ∧
      (y.evt = true → s.config.eventSet.getLsbD i.val = true → (s.recordUpdated i y).CaptureGives (.station i) t))

/-- What a reply with these bytes carries (R8, R16): ERR, WARN, EVT, and for a READ or WRITE BUSY, of the station status; the
payload between it and the check word. -/
def replyOf (x : Exchange) (bytes : List Byte) : Reply where
  err := (bytes.getD 1 0).getLsbD 0
  warn := (bytes.getD 1 0).getLsbD 1
  evt := (bytes.getD 1 0).getLsbD 2
  busy := if x.kind = .read ∨ x.kind = .write then (bytes.getD 1 0).getLsbD 3 else false
  payload := (bytes.take (x.expected - 2)).drop 2

/-- The command decides the exchange `x` in flight with this outcome (R11 to R15). -/
def Decides (s : State) (c : Instr) (x : Exchange) (d : Decision) : Prop :=
  (d = .failed .noReply ∧
      ((c = .responseTimeout .high ∧ s.engine = .waiting x false) ∨
        (c = .replyStartBit .high ∧ s.engine = .waiting x true))) ∨
    (d = .failed .badLength ∧
      ((c = .idleTimeout .high ∧ s.engine = .receiving x .running) ∨
        (c = .replyStartBit .high ∧ s.engine = .receiving x .expiredLow))) ∨
    (s.engine = .receiving x .stopped ∧ ∃ v,
      (c = .replyByte v .low ∧ d = .failed .badCheck) ∨
        (c = .replyByte v .high ∧ x.received = [] ∧ x.request.head? ≠ some v ∧ x.request ≠ [] ∧
          d = .failed .badEcho) ∨
        (c = .replyByte v .high ∧ 4 ≤ x.expected ∧ x.received.length + 1 = x.expected ∧
          (crc ((x.received ++ [v]).take (x.expected - 2)) =
              (x.received ++ [v]).getD (x.expected - 2) 0 ++ (x.received ++ [v]).getD (x.expected - 1) 0 ∧
              d = .success (replyOf x (x.received ++ [v])) ∨
            crc ((x.received ++ [v]).take (x.expected - 2)) ≠
              (x.received ++ [v]).getD (x.expected - 2) 0 ++ (x.received ++ [v]).getD (x.expected - 1) 0 ∧
              d = .failed .badCheck)))

/-- The report of exchange `x` has been passed on, and that gives `v` (R31), whatever the link state. Without the discard mark the
slot's health takes it, then the process image a good cyclic reply, or the window unit a READ or WRITE. Under the mark the window
unit alone is told, that the slot left, and the mark is cleared. -/
def PassedOn (s : State) (x : Exchange) (d : Decision) (v : State) : Prop :=
  (s.sched.discard = false →
    (x.kind = .ident → v = s.evidenceTaken x d) ∧
    (x.kind = .cyclic →
      (∀ f, d = .failed f → v = s.evidenceTaken x d) ∧
      ∀ y, d = .success y → (s.evidenceTaken x d).ImageGives x.slot y v) ∧
    (x.kind = .read ∨ x.kind = .write → v = (s.evidenceTaken x d).windowReport d)) ∧
    (s.sched.discard = true →
      ∃ u, u = { s.modSched fun c => { c with discard := false } with engine := .quiet x.rate .quietEntry } ∧
        (x.kind = .cyclic ∨ x.kind = .ident → v = u) ∧ (x.kind = .read ∨ x.kind = .write → u.OutEnds .slotLeft v))

/-- Port `p` once the stop waiters are told (R24): if it is one and its LINK_STOP is still in progress, it has DONE with RES_DETAIL
0 and CMD_DONE. -/
def waiterTold (s : State) (p : Port) : PortContext :=
  if s.sched.waiters.get p = true ∧ (s.command p).inProgress = true ∧ (s.command p).code = 0x0F then
    { s.port p with
      command := { s.command p with inProgress := false, result := .done, detail := 0 }
      events := (s.port p).events ||| 0x40 }
  else s.port p

/-- The stop waiters are told, and there is none any more (R24). -/
def waitersTold (s : State) : State :=
  { s.modSched fun c => { c with waiters := ⟨false, false, false⟩ } with
    ports := ⟨s.waiterTold .a, s.waiterTold .b, s.waiterTold .c⟩ }

/-- STOPPING ends from `v`, the report passed on, and gives `t` (R24, R25): a pending request is withdrawn, the queue emptied, the
link STOPPED, the stop waiters told. -/
def StoppingGives (v t : State) : Prop :=
  ∃ w, t = ((w.requestsRemoved (fun _ => true) .linkStopped).linkStopped).waitersTold ∧ (v.handed = none → w = v) ∧
    ∀ h, v.handed = some h → v.WithdrawnGives h.kind .linkStopped w

/-- An access of port `p` at port-page address `a` is one at this image address (R143, R144): through the image window, or
through DATA. -/
def AtImage (s : State) (p : Port) (a : Byte) (addr : BitVec 13) : Prop :=
  (0x80 ≤ a.toNat ∧ addr.toNat = 128 * (s.port p).page.toNat + (a.toNat - 0x80)) ∨
    (a = 0x13 ∧ addr = (s.port p).pointer)

/-- The input record that port `p`'s reads of slot `i` come from (R76): its snapshot if that holds the slot, a copy of the live
record otherwise. -/
def Shows (s : State) (p : Port) (i : Fin 16) (r : RecordCopy) : Prop :=
  (s.port p).snapshot = some r ∧ r.slot = i ∨
    (∀ x, (s.port p).snapshot = some x → x.slot ≠ i) ∧
      r = ⟨i, (s.slot i).input.state, (s.slot i).input.err, (s.slot i).input.warn, (s.slot i).input.evt,
        (s.slot i).input.generation, (s.slot i).input.age, (s.slot i).config.inputLength, (s.slot i).input.data⟩

/-- The settings lie in the ranges that R167 gives for the load. -/
def SettingsInRange (s : State) : Prop := ∀ g : Global, g.inRange (s.config.byte g) = true

/-- Every slot's configuration lies in the ranges that R167 gives for the load. -/
def SlotsInRange (s : State) : Prop := ∀ (i : Fin 16) (f : ConfigField), f.inRange ((s.slot i).config.byte f) = true

/-- The live configuration lies in the ranges of R167. -/
def ConfigInRange (s : State) : Prop := s.SettingsInRange ∧ s.SlotsInRange

/-- The store's cells have their canonical form, and hold no validation word while a save is past its first phase
(R171). -/
def StoreSound (s : State) : Prop :=
  Memory.wf s.store.cells = true ∧
    ∀ v, s.store.save = some v → v.image.length = Config.storeSize ∧
      (v.phase ≠ .erase →
        Memory.read s.store.cells 0 = Config.erasedCell ∧ Memory.read s.store.cells 1 = Config.erasedCell)

/-- The request queue holds at most eight records (R103). -/
def QueueBounded (s : State) : Prop := s.queue.length ≤ Config.queueDepth

/-- Every queued request addresses a slot that is ACTIVE or SUSPECT (R103); before READY every slot is DISABLED. -/
def QueueLinked (s : State) : Prop :=
  (s.ready = false → ∀ i, (s.slot i).health.state = .disabled) ∧
    ∀ r ∈ s.queue, (s.slot r.slot).health.state.linked = true

/-- No window has more than one request that is queued or out at the link engine (R103, R105): a queued record's window is
QUEUED, no two queued records serve one window, and the window of the record out is IN_FLIGHT or CANCELLING. -/
def RequestsMatchWindows (s : State) : Prop :=
  (∀ r ∈ s.queue, (s.window r.port r.window).state = .queued) ∧
    (s.queue.map fun r => (r.port, r.window)).Nodup ∧
    ∀ r, s.out = some r →
      (s.window r.port r.window).state = .inFlight ∨ (s.window r.port r.window).state = .cancelling

/-- Every busy window has its request (R103, R105): a QUEUED window a record in the queue, an IN_FLIGHT or CANCELLING window the
record out. -/
def WindowsMatchRequests (s : State) : Prop :=
  ∀ p w,
    ((s.window p w).state = .queued → ∃ r ∈ s.queue, r.port = p ∧ r.window = w) ∧
      ((s.window p w).state = .inFlight ∨ (s.window p w).state = .cancelling →
        ∃ r, s.out = some r ∧ r.port = p ∧ r.window = w)

/-- The link engine has a request of kind `k` for slot `i`: pending, or with its exchange in flight (R4). -/
def AtEngine (s : State) (k : Kind) (i : Fin 16) : Prop :=
  s.handed = some ⟨k, i⟩ ∨ ∃ x, s.engine.exchange = some x ∧ x.kind = k ∧ x.slot = i

/-- A READ or WRITE pending at the engine or in flight has its record out, with its kind and its slot, and the record out has its
READ or WRITE there (R105). -/
def OutAtEngine (s : State) : Prop :=
  (∀ k i, k = .read ∨ k = .write → s.AtEngine k i → ∃ r, s.out = some r ∧ r.kind.kind = k ∧ r.slot = i) ∧
    ∀ r, s.out = some r → s.AtEngine r.kind.kind r.slot

/-- The engine has one request at a time, within a cycle: one is pending only in QUIET (R4, R5), and one is pending or in flight
only while a cycle is in progress (R28, R32). With the link STOPPED there is no cycle (R25); before READY the link is STOPPED
(R18). -/
def OneRequestInCycle (s : State) : Prop :=
  (s.handed ≠ none → ∃ rate since, s.engine = .quiet rate since) ∧
    (s.handed ≠ none ∨ s.engine.exchange ≠ none → s.sched.inCycle = true) ∧
    (s.sched.link = .stopped → s.sched.inCycle = false) ∧ (s.ready = false → s.sched.link = .stopped)

/-- The windows, the queue, the record out and the engine agree (R103, R105): each request is where its window's state says, and
each busy window has its request there. -/
def RequestsSound (s : State) : Prop :=
  s.RequestsMatchWindows ∧ s.WindowsMatchRequests ∧ s.OutAtEngine ∧ s.OneRequestInCycle

/-- The ring holds at most eight records, each unread by some subscribed port (R124): it is as long as the longest run of
unread records, and no longer. -/
def RingSound (s : State) : Prop := s.capture.ring.length ≤ Config.ringDepth ∧ s.capture.ring.length = s.mostUnread

/-- A slot's owner is a CONTROL or SUPERVISE port (R80); before READY no slot has one. -/
def OwnersDrive (s : State) : Prop :=
  ∀ i p, (s.slot i).owner = some p → s.ready = true ∧ s.role p ≠ .observe

/-- No two slots that are not DISABLED hold one station address (R44); before READY every slot is DISABLED. -/
def AddressesUnique (s : State) : Prop :=
  (s.ready = false → ∀ i, (s.slot i).health.state = .disabled) ∧
    ∀ i j, i ≠ j → (s.slot i).health.state ≠ .disabled → (s.slot j).health.state ≠ .disabled →
      (s.slot i).config.address ≠ (s.slot j).config.address

/-- An input record is FRESH or STALE only while its slot is ACTIVE or SUSPECT (R62). -/
def RecordsFollowHealth (s : State) : Prop :=
  ∀ i, (s.slot i).input.state = .fresh ∨ (s.slot i).input.state = .stale → (s.slot i).health.state.linked = true

/-- What the machine derives at the end of every command stands as derived: CAPTURE_READY, the attention lines, LINKSTAT
and LINK_DE (R157, R159, R162, R1). -/
def Settled (s : State) : Prop := s.settle = s

end State

end Machine

end Sys2Proof
end

