-- ==== Sys2Proof/Certificates/Slice0/Obligations.lean ====
section
/-! DEFINITION. The statements about the T16. Every result statement says that exec answers a next state, and that state is
the state before with the named updates and nothing else: its equation is the frame too. -/

open Sys2Proof Sys2Proof.Machine

/-! ### The machine -/

/-- A step takes the command at the front of the queue and runs it on the state with the queue's rest. -/
def Clause.StepRunsFrontCommand : Prop :=
  ∀ (c : Instr) (rest : List Instr) (s : State), s.pending = c :: rest → step s = exec c { s with pending := rest }

/-- On an empty queue the block idles. This is the model's choice (log entry 10). -/
def Clause.StepIdlesOnEmptyQueue : Prop := ∀ s : State, s.pending = [] → step s = .next s

/-- A step runs the command at the front of the queue; on an empty queue it idles. -/
def Obligations.StepTakesFrontCommand : Prop := Clause.StepRunsFrontCommand ∧ Clause.StepIdlesOnEmptyQueue

/-- Every command answers a next state, leaves the queue alone and leaves every derived level settled: no command stops. -/
def Clause.NoCommandStops : Prop :=
  ∀ (i : Instr) (s : State), ∃ t, exec i s = .next t ∧ t.pending = s.pending ∧ t.Settled

/-- After every command LINK_DE is asserted exactly while the link engine is SENDING. -/
def Clause.TransmitEnableInSendingAlone : Prop :=
  ∀ (i : Instr) (s : State), ∃ t, exec i s = .next t ∧ (t.pins.linkDe = true ↔ ∃ x, t.engine = .sending x)

/-- Settling a state changes nothing but CAPTURE_READY in each port's event flags, the attention lines, LINKSTAT and LINK_DE. -/
def Clause.SettlingChangesLevelsAlone : Prop :=
  ∀ s : State, ∃ (ready : PerPort Byte) (lines : PerPort Level) (linkstat : Level) (linkDe : Bool),
    s.settle =
      { s with
        ports :=
          ⟨{ s.ports.a with events := (s.ports.a.events &&& 0xFE) ||| ready.a },
            { s.ports.b with events := (s.ports.b.events &&& 0xFE) ||| ready.b },
            { s.ports.c with events := (s.ports.c.events &&& 0xFE) ||| ready.c }⟩
        pins := { attn := lines, linkstat := linkstat, linkDe := linkDe, capt := s.pins.capt } } ∧
      ∀ p, ready.get p = 0 ∨ ready.get p = 0x01

/-- Every command answers a settled next state; LINK_DE there; and what settling is. -/
def Obligations.EveryCommandAnswersSettledState : Prop :=
  Clause.NoCommandStops ∧ Clause.TransmitEnableInSendingAlone ∧ Clause.SettlingChangesLevelsAlone

/-- After every command each port's attention line is low exactly while one of its flags is set and enabled. -/
def Clause.AttentionLineFollowsFlags : Prop :=
  ∀ (i : Instr) (s : State), ∃ t, exec i s = .next t ∧
    ∀ p, t.pins.attn.get p = if (t.port p).events &&& (t.port p).enables = 0 then .high else .low

/-- After every command CAPTURE_READY is set exactly while the port is subscribed with a record at its cursor. -/
def Clause.CaptureReadyShowsRecord : Prop :=
  ∀ (i : Instr) (s : State), ∃ t, exec i s = .next t ∧
    ∀ p, (t.port p).events.getLsbD 0 = true ↔ ∃ k, (t.port p).cursor = some k ∧ 0 < k.unread

/-- The attention lines and CAPTURE_READY after every command. -/
def Obligations.EventLevelsFollowState : Prop :=
  Clause.AttentionLineFollowsFlags ∧ Clause.CaptureReadyShowsRecord

/-- After every command the LINKSTAT pin is as R162's table and its invert rule give. -/
def Obligations.LinkstatFollowsTable : Prop :=
  ∀ (i : Instr) (s : State), ∃ t, exec i s = .next t ∧
    (t.pins.linkstat = .low ↔
      ((t.sched.link ≠ .stopped ∧
        ((t.config.linkstatHealth = false ∧ t.config.linkstatFault = false ∧ t.phase = true) ∨
          (t.config.linkstatHealth = false ∧ t.config.linkstatFault = true ∧
            (t.phase = true ∨ ∃ j, (t.slot j).health.state = .lockedOut)) ∨
          (t.config.linkstatHealth = true ∧ t.config.linkstatFault = false ∧
            ∀ j, (t.slot j).health.state = .disabled ∨ (t.slot j).health.state = .active) ∨
          (t.config.linkstatHealth = true ∧ t.config.linkstatFault = true ∧
            ∃ j, (t.slot j).health.state = .lockedOut))) ↔
        t.config.linkstatInvert = false))

/-! ### Reset and start-up -/

/-- PART_RESET with no save in progress: the state State.reset, with the cells kept, the reset cause recorded, ADDR sampled and
an SPI transfer in progress abandoned. What the spec gives no part-reset value before the load is the model's choice, unsafe: the
settings, the slot configurations, the roles in force and the allowance copy (log entry 3), the store state DEFAULTED (log entry
7), the level last seen on CAPT kept (log entry 6). -/
def Clause.PartResetResetsEveryBlock : Prop :=
  ∀ (cause : ResetCause) (addr : Level) (cut : SaveCut) (s : State), s.store.save = none →
    exec (.partReset cause addr cut) s = .next
      { State.reset with
        spiA := ⟨if s.spiA.phase = .idle then .idle else .abandoned, none⟩
        spiB := ⟨if s.spiB.phase = .idle then .idle else .abandoned, none⟩
        i2c := { State.reset.i2c with addr := addr }
        store := { State.reset.store with cells := s.store.cells, resetCause := cause }
        pins := { State.reset.pins with capt := s.pins.capt }
        pending := s.pending }

/-- The part-reset values of the slots, the ports, the scheduler, the queue, the capture unit, the engine and the output pins. -/
def Clause.ResetValuesByBlock : Prop :=
  (∀ i, (State.reset.slot i).health = ⟨.disabled, .first, 0, 0, 0, 0, none, .none, 0, 0, 0, 0, 0⟩ ∧
    (State.reset.slot i).input = ⟨.never, false, false, false, 0, 0, Vector.replicate 16 0, false⟩ ∧
    (State.reset.slot i).output = ⟨Vector.replicate 16 0, 0⟩ ∧ (State.reset.slot i).owner = none) ∧
  (∀ p, (State.reset.port p).page = 0 ∧ (State.reset.port p).pointer = 0 ∧
    State.reset.command p = ⟨false, 0, 0, 0, 0, .none, 0⟩ ∧ (State.reset.port p).status State.reset.ready = 0 ∧
    (State.reset.port p).snapshot = none ∧ (State.reset.port p).stage = none ∧ (State.reset.port p).events = 0 ∧
    (State.reset.port p).enables = 0 ∧ (State.reset.port p).cursor = none ∧
    ∀ w, State.reset.window p w =
      ⟨0, false, false, 0, 0, Vector.replicate 4 0, Vector.replicate 4 0, .idle, .none, 0, false, false⟩) ∧
  State.reset.sched.link = .stopped ∧ State.reset.sched.timer = none ∧ State.reset.sched.cycle = 0 ∧
  State.reset.sched.overruns = 0 ∧ State.reset.sched.inCycle = false ∧ State.reset.sched.plan = [] ∧
  State.reset.sched.acyclic = 0 ∧ State.reset.sched.deferred = false ∧
  State.reset.sched.waiters = ⟨false, false, false⟩ ∧ State.reset.sched.discard = false ∧ State.reset.queue = [] ∧ State.reset.out = none ∧
  State.reset.capture = ⟨[], 0, 0⟩ ∧ State.reset.engine = .quiet 0 .quietEntry ∧ State.reset.handed = none ∧
  State.reset.phase = false ∧ State.reset.pins.attn = ⟨.high, .high, .high⟩ ∧ State.reset.pins.linkstat = .high ∧
  State.reset.pins.linkDe = false

/-- PART_RESET answers State.reset but for what it keeps, and the values the spec gives every block there. The settings, the roles
in force, the allowance copy, the store state before the load and the CAPT level are the model's (log entries 3, 6 and 7). -/
def Obligations.PartResetTakesBlocksBack : Prop := Clause.PartResetResetsEveryBlock ∧ Clause.ResetValuesByBlock

/-- A part reset that ends a save once cell 0x000 or 0x001 has been erased leaves no validation word; one that comes before
leaves the cells as they were. -/
def Obligations.ResetDuringSave : Prop :=
  ∀ (cause : ResetCause) (addr : Level) (cut : SaveCut) (s : State) (v : Save), cut.wellFormed = true →
    s.StoreSound → s.store.save = some v →
    ∃ t, exec (.partReset cause addr cut) s = .next t ∧ t.store.save = none ∧ t.store.resetCause = cause ∧
      t.store.lastSave = .none ∧ t.ready = false ∧ t.ports = State.reset.ports ∧
      (v.phase = .erase → cut.erased0 = false → cut.erased1 = false → t.store.cells = s.store.cells) ∧
      (v.phase ≠ .erase ∨ cut.erased0 = true ∨ cut.erased1 = true →
        ¬(Memory.read t.store.cells 0 = 0x2E ∧ Memory.read t.store.cells 1 = 0x6D))

/-- STORE_LOAD_DONE with a refused image: the default configuration, DEFAULTED, the default roles, READY, and nothing
enabled or started. -/
def Clause.StartUpWithRefusedImage : Prop :=
  ∀ s : State, s.ready = false → imageAccepted s.cellBytes = false →
    exec .storeLoadDone s = .next
      { (s.modSlots fun x => { x with config := SlotConfig.default }) with
        config := LiveConfig.default
        roles := ⟨.control, .control, .supervise⟩
        store := { s.store with state := .defaulted }
        ready := true }.settle

/-- STORE_LOAD_DONE with an accepted image and auto-start off: every field from the image, VALID, the roles in force with
Port C made SUPERVISE if no port is, READY; a slot is enabled exactly when it is marked, its address is 1 to 62 and no
slot enabled before it holds that address. -/
def Clause.StartUpWithAcceptedImage : Prop :=
  ∀ s : State, s.ready = false → (∀ i, (s.slot i).health.state = .disabled) → imageAccepted s.cellBytes = true →
    (imageConfig s.cellBytes).autoStart = false →
    ∃ t, exec .storeLoadDone s = .next t ∧ t.ready = true ∧ t.config = imageConfig s.cellBytes ∧
      t.store = { s.store with state := .valid } ∧ t.sched = s.sched ∧ t.engine = s.engine ∧ t.queue = s.queue ∧
      t.capture = s.capture ∧
      ((∃ p, (imageConfig s.cellBytes).roles.get p = .supervise) → t.roles = (imageConfig s.cellBytes).roles) ∧
      ((∀ p, (imageConfig s.cellBytes).roles.get p ≠ .supervise) →
        t.roles = { (imageConfig s.cellBytes).roles with c := .supervise }) ∧
      ∀ i, (t.slot i).config = imageSlot s.cellBytes i ∧ (t.slot i).owner = (s.slot i).owner ∧
        ((t.slot i).health.state = .probing ↔
          ((t.slot i).config.enableAtStart = true ∧ 1 ≤ (t.slot i).config.address.toNat ∧
            (t.slot i).config.address.toNat ≤ 62 ∧
            ∀ j, j < i → (t.slot j).health.state = .probing →
              (t.slot j).config.address ≠ (t.slot i).config.address)) ∧
        ((t.slot i).health.state = .probing →
          (t.slot i).health = { Health.reset with state := .probing } ∧ (t.slot i).input = InputRecord.reset ∧
            (t.slot i).output = ⟨(t.slot i).config.safeOutput, 0⟩ ∧ ∀ p, (t.port p).events &&& 0x08 = 0x08) ∧
        ((t.slot i).health.state ≠ .probing →
          (t.slot i).health = (s.slot i).health ∧ (t.slot i).input = (s.slot i).input ∧
            (t.slot i).output = (s.slot i).output)

/-- STORE_LOAD_DONE with auto-start on: the link enters RUNNING with the loaded period and cycle 1 starts. -/
def Clause.AutoStartStartsLink : Prop :=
  ∀ s : State, s.ready = false → s.sched.deferred = false → imageAccepted s.cellBytes = true →
    (imageConfig s.cellBytes).autoStart = true →
    ∃ t, exec .storeLoadDone s = .next t ∧ t.ready = true ∧ t.sched.link = .running ∧
      t.sched.timer = some (125 * (imageConfig s.cellBytes).period.toNat) ∧ t.sched.cycle = s.sched.cycle + 1 ∧
      ∀ p, (t.port p).events &&& 0x80 = 0x80

/-- STORE_LOAD_DONE with auto-start on, whole: the state `u` has the configuration, the store state, the roles and the enabled
slots as with auto-start off; from it the link enters RUNNING, cycle 1 starts and takes its first turn, and the part is READY. -/
def Clause.AutoStartLoadsConfiguration : Prop :=
  ∀ s : State, s.ready = false → (∀ i, (s.slot i).health.state = .disabled) → imageAccepted s.cellBytes = true →
    (imageConfig s.cellBytes).autoStart = true →
    ∃ u t : State, exec .storeLoadDone s = .next ({ t with ready := true } : State).settle ∧ u.linkRunning.CycleStarts t ∧
      u.config = imageConfig s.cellBytes ∧ u.store = { s.store with state := .valid } ∧ u.sched = s.sched ∧
      u.engine = s.engine ∧ u.handed = s.handed ∧ u.queue = s.queue ∧ u.out = s.out ∧ u.capture = s.capture ∧
      u.phase = s.phase ∧ (∀ p, u.transfer p = s.transfer p) ∧
      ((∃ p, (imageConfig s.cellBytes).roles.get p = .supervise) → u.roles = (imageConfig s.cellBytes).roles) ∧
      ((∀ p, (imageConfig s.cellBytes).roles.get p ≠ .supervise) →
        u.roles = { (imageConfig s.cellBytes).roles with c := .supervise }) ∧
      (∀ p, u.port p = s.port p ∨ u.port p = { s.port p with events := (s.port p).events ||| 0x08 }) ∧
      ∀ i, (u.slot i).config = imageSlot s.cellBytes i ∧ (u.slot i).owner = (s.slot i).owner ∧
        ((u.slot i).health.state = .probing ↔
          ((u.slot i).config.enableAtStart = true ∧ 1 ≤ (u.slot i).config.address.toNat ∧
            (u.slot i).config.address.toNat ≤ 62 ∧
            ∀ j, j < i → (u.slot j).health.state = .probing →
              (u.slot j).config.address ≠ (u.slot i).config.address)) ∧
        ((u.slot i).health.state = .probing →
          (u.slot i).health = { Health.reset with state := .probing } ∧ (u.slot i).input = InputRecord.reset ∧
            (u.slot i).output = ⟨(u.slot i).config.safeOutput, 0⟩ ∧ ∀ p, (u.port p).events &&& 0x08 = 0x08) ∧
        ((u.slot i).health.state ≠ .probing →
          (u.slot i).health = (s.slot i).health ∧ (u.slot i).input = (s.slot i).input ∧
            (u.slot i).output = (s.slot i).output)

/-- STORE_LOAD_DONE with an accepted image, with auto-start off and on. -/
def Obligations.StartUpValid : Prop :=
  Clause.StartUpWithAcceptedImage ∧ Clause.AutoStartStartsLink ∧ Clause.AutoStartLoadsConfiguration

/-- STORE_LOAD_DONE outside LOADING does nothing: the model's choice for an event that cannot come (log entry 2). -/
def Clause.StoreLoadOnlyInLoading : Prop :=
  ∀ s : State, s.ready = true → exec .storeLoadDone s = .next s.settle

/-- The load's judgement, cell by cell of section 11.5: the image is accepted exactly if the validation word, the CRC, the format
version and every field with a range pass their checks. So one check that fails refuses it. -/
def Clause.LoadJudgesImage : Prop :=
  ∀ (s : State) (cell : Nat → Byte), Memory.wf s.store.cells = true → (∀ a, cell a = Memory.read s.store.cells a) →
    (imageAccepted s.cellBytes = true ↔
      cell 0x000 = 0x2E ∧ cell 0x001 = 0x6D ∧ crc ((List.range 0x3FE).map cell) = cell 0x3FE ++ cell 0x3FF ∧
        cell 0x002 = 1 ∧ (1 ≤ (cell 0x004).toNat ∧ (cell 0x004).toNat ≤ 128) ∧
        (1 ≤ (cell 0x005).toNat ∧ (cell 0x005).toNat ≤ 63) ∧ (1 ≤ (cell 0x006).toNat ∧ (cell 0x006).toNat ≤ 4) ∧
        1 ≤ (cell 0x007).toNat ∧ (1 ≤ (cell 0x008).toNat ∧ (cell 0x008).toNat ≤ 7) ∧
        (1 ≤ (cell 0x009).toNat ∧ (cell 0x009).toNat ≤ 15) ∧ (1 ≤ (cell 0x00A).toNat ∧ (cell 0x00A).toNat ≤ 15) ∧
        1 ≤ (cell 0x00B).toNat ∧ (cell 0x00C).toNat ≤ 7 ∧
        ((cell 0x00D).extractLsb' 0 2 ≠ 3 ∧ (cell 0x00D).extractLsb' 2 2 ≠ 3 ∧ (cell 0x00D).extractLsb' 4 2 ≠ 3) ∧
        (cell 0x00F).toNat ≤ 3 ∧
        ∀ i : Fin 16, (cell (0x040 + 32 * i.val)).toNat ≤ 62 ∧ (cell (0x044 + 32 * i.val)).toNat ≤ 16 ∧
          (cell (0x045 + 32 * i.val)).toNat ≤ 16 ∧ 1 ≤ (cell (0x046 + 32 * i.val)).toNat ∧
          (cell (0x046 + 32 * i.val)).toNat ≤ 8)

/-- Which image the load refuses, STORE_LOAD_DONE with a refused image, and outside LOADING. -/
def Obligations.StartUpDefaulted : Prop :=
  Clause.StartUpWithRefusedImage ∧ Clause.StoreLoadOnlyInLoading ∧ Clause.LoadJudgesImage

/-- A saved image is accepted at the next load and gives back the configuration it was built from. -/
def Clause.SavedImageIsAccepted : Prop :=
  ∀ s : State, s.ConfigInRange →
    imageAccepted s.saveImage = true ∧ imageConfig s.saveImage = s.config ∧
      ∀ i, imageSlot s.saveImage i = (s.slot i).config

/-- The save image cell by cell: section 11.5. `code` gives the roles' codes and `x` is the live configuration. -/
def Clause.SavedImageAtCells : Prop :=
  ∀ (s : State) (x : LiveConfig) (code : Role → BitVec 2) (a : Nat) (v : Byte), x = s.config → code .control = 0 →
    code .observe = 1 → code .supervise = 2 →
    (a = 0x000 ∧ v = 0x2E) ∨ (a = 0x001 ∧ v = 0x6D) ∨ (a = 0x002 ∧ v = 1) ∨
      (a = 0x003 ∧ v = BitVec.ofBool x.autoStart ++ (0 : BitVec 5) ++ x.bitRate) ∨ (a = 0x004 ∧ v = x.period) ∨
      (a = 0x005 ∧ v = x.timeout) ∨ (a = 0x006 ∧ v = x.allowance) ∨ (a = 0x007 ∧ v = x.staleLimit) ∨
      (a = 0x008 ∧ v = x.suspectLimit) ∨ (a = 0x009 ∧ v = x.firstQuick) ∨ (a = 0x00A ∧ v = x.rejoinQuick) ∨
      (a = 0x00B ∧ v = x.backoffCode) ∨ (a = 0x00C ∧ v = x.lockoutRounds) ∨
      (a = 0x00D ∧ v = (0 : BitVec 2) ++ code x.roles.c ++ code x.roles.b ++ code x.roles.a) ∨
      (a = 0x00E ∧ v = (0 : BitVec 5) ++ BitVec.ofBool x.linkstatFault ++ BitVec.ofBool x.linkstatInvert ++
        BitVec.ofBool x.linkstatHealth) ∨
      (a = 0x00F ∧ v = match x.pinEdge with | .off => 0 | .rising => 1 | .falling => 2 | .both => 3) ∨
      (a = 0x010 ∧ v = x.timerDivider) ∨ (a = 0x011 ∧ v = x.captureSet.extractLsb' 0 8) ∨
      (a = 0x012 ∧ v = x.captureSet.extractLsb' 8 8) ∨ (a = 0x013 ∧ v = x.eventSet.extractLsb' 0 8) ∨
      (a = 0x014 ∧ v = x.eventSet.extractLsb' 8 8) ∨ (0x015 ≤ a ∧ a ≤ 0x03F ∧ v = 0) ∨
      (∃ (i : Fin 16) (y : SlotConfig) (off : Nat), y = (s.slot i).config ∧ a = 0x040 + 32 * i.val + off ∧
        ((off = 0x00 ∧ v = y.address) ∨
          (off = 0x01 ∧ v = (0 : BitVec 4) ++ BitVec.ofBool y.releaseSafe ++ BitVec.ofBool y.errSafe ++
            BitVec.ofBool y.errLatch ++ BitVec.ofBool y.enableAtStart) ∨
          (off = 0x02 ∧ v = y.expectedClass.extractLsb' 0 8) ∨ (off = 0x03 ∧ v = y.expectedClass.extractLsb' 8 8) ∨
          (off = 0x04 ∧ v = y.inputLength) ∨ (off = 0x05 ∧ v = y.outputLength) ∨ (off = 0x06 ∧ v = y.pollDivider) ∨
          (off = 0x07 ∧ v = 0) ∨ (∃ k : Fin 16, off = 0x08 + k.val ∧ v = y.safeOutput[k]) ∨
          (0x18 ≤ off ∧ off ≤ 0x1F ∧ v = 0))) ∨
      (0x240 ≤ a ∧ a ≤ 0x3FD ∧ v = 0) ∨ (a = 0x3FE ∧ v = (crc (s.saveImage.take 0x3FE)).extractLsb' 8 8) ∨
      (a = 0x3FF ∧ v = (crc (s.saveImage.take 0x3FE)).extractLsb' 0 8) →
    s.saveImage.length = 1024 ∧ s.saveImage[a]? = some v

/-- The configuration that an accepted image gives, field by field from its cell of section 11.5. -/
def Clause.LoadedFieldsFromCells : Prop :=
  ∀ (s : State) (cell : Nat → Byte) (code : Role → BitVec 2), Memory.wf s.store.cells = true →
    (∀ a, cell a = Memory.read s.store.cells a) → code .control = 0 → code .observe = 1 → code .supervise = 2 →
    imageAccepted s.cellBytes = true →
    (∃ x y z e, code x = (cell 0x00D).extractLsb' 0 2 ∧ code y = (cell 0x00D).extractLsb' 2 2 ∧
      code z = (cell 0x00D).extractLsb' 4 2 ∧
      cell 0x00F = (match e with | PinEdge.off => 0 | .rising => 1 | .falling => 2 | .both => 3) ∧
      imageConfig s.cellBytes =
        { bitRate := (cell 0x003).extractLsb' 0 2
          autoStart := (cell 0x003).getLsbD 7
          period := cell 0x004
          timeout := cell 0x005
          allowance := cell 0x006
          staleLimit := cell 0x007
          suspectLimit := cell 0x008
          firstQuick := cell 0x009
          rejoinQuick := cell 0x00A
          backoffCode := cell 0x00B
          lockoutRounds := cell 0x00C
          roles := ⟨x, y, z⟩
          linkstatHealth := (cell 0x00E).getLsbD 0
          linkstatInvert := (cell 0x00E).getLsbD 1
          linkstatFault := (cell 0x00E).getLsbD 2
          pinEdge := e
          timerDivider := cell 0x010
          captureSet := cell 0x012 ++ cell 0x011
          eventSet := cell 0x014 ++ cell 0x013 }) ∧
    ∀ (i : Fin 16) (b : Nat), b = 0x040 + 32 * i.val → imageSlot s.cellBytes i =
      { address := cell b
        enableAtStart := (cell (b + 1)).getLsbD 0
        errLatch := (cell (b + 1)).getLsbD 1
        errSafe := (cell (b + 1)).getLsbD 2
        releaseSafe := (cell (b + 1)).getLsbD 3
        expectedClass := cell (b + 3) ++ cell (b + 2)
        inputLength := cell (b + 4)
        outputLength := cell (b + 5)
        pollDivider := cell (b + 6)
        safeOutput := Vector.ofFn fun k : Fin 16 => cell (b + 8 + k.val) }

/-- The save image and the load of it: each field at its cell, and the configuration given back. -/
def Obligations.SavedImageLoadsBack : Prop :=
  Clause.SavedImageIsAccepted ∧ Clause.SavedImageAtCells ∧ Clause.LoadedFieldsFromCells

/-! ### The transports -/

/-- The events of an SPI transfer. -/
def Clause.SpiTransferEvents : Prop :=
  ∀ (p : SpiPort) (s : State),
    ((s.spi p).phase = .idle → exec (.spiCsFall p) s = .next (s.setSpi p ⟨.operation, some 0⟩).settle) ∧
    (∀ v, (s.spi p).phase = .operation → exec (.spiOperationByte p v) s = .next
      (s.setSpi p ⟨if v = 0x01 then .address true else if v = 0x02 then .address false else .void, some 0⟩).settle) ∧
    (∀ v w, (s.spi p).phase = .address w → exec (.spiAddressByte p v) s = .next
      (s.setSpi p ⟨.data w v, some 0⟩).settle) ∧
    exec (.spiCsRise p) s = .next (s.setSpi p ⟨.idle, none⟩).settle

/-- The events of a Port C transaction. Its target address is 0x2C for ADDR low and 0x2D for ADDR high. -/
def Clause.I2cTransactionEvents : Prop :=
  ∀ s : State,
    exec .i2cStart s = .next { s with i2c := { s.i2c with phase := .target, sda := none, ack := false } }.settle ∧
    (∀ (target : BitVec 7) (read : Bool), s.i2c.phase = .target →
      exec (.i2cTargetAddress target read) s = .next
        { s with i2c :=
          if target = (if s.i2c.addr = Level.low then (0x2C : BitVec 7) else 0x2D) then
            { s.i2c with phase := if read then .reading else .firstByte, sda := none, ack := true }
          else { s.i2c with phase := .idle, sda := none, ack := false } }.settle) ∧
    (∀ v, s.i2c.phase = .firstByte → exec (.i2cAddressByte v) s = .next
      { s with i2c := { s.i2c with phase := .writing, current := v, sda := none, ack := true } }.settle) ∧
    exec .i2cStop s = .next { s with i2c := { s.i2c with phase := .idle, sda := none, ack := false } }.settle ∧
    (s.i2c.phase = .reading → exec .i2cReadNack s = .next
      { s with i2c := { s.i2c with phase := .idle, sda := none, ack := false } }.settle)

/-- The events of the SPI transports and of Port C that are no byte access. -/
def Obligations.TransportEvents : Prop := Clause.SpiTransferEvents ∧ Clause.I2cTransactionEvents

/-- During LOADING every access reads 0 and reaches no owner: only the transport that makes it carries the byte and moves on,
whichever row of the table the access is sent as (R153, log entry 1). -/
def Obligations.LoadingAccessReachesNoOwner : Prop :=
  ∀ (i : Instr) (p : Port) (x : Access) (a : Byte) (s : State), i.wellFormed = true → i.access = some (p, x) →
    s.ready = false → s.transfer p = some (x.isWrite, a) →
    exec i s = .next (s.byteCarried p x.isWrite a 0).settle

/-- An access at a location its row takes, and during LOADING any access, moves its own port's transport on by one address, from
0xFF to 0x00, but not from DATA; it moves no other port's. -/
def Clause.AccessMovesTransport : Prop :=
  ∀ (i : Instr) (p : Port) (x : Access) (a : Byte) (s : State), i.wellFormed = true → i.access = some (p, x) →
    s.transfer p = some (x.isWrite, a) → s.ready = false ∨ s.rowTakes p i (s.target p a) = true →
    ∃ t, exec i s = .next t ∧ (∀ q, q ≠ p → t.transfer q = s.transfer q) ∧
      t.transfer p = some (x.isWrite, if a = 0x13 then a else a + 1)

/-- The same accesses on the lines. The port's transport stays in its transfer. An SPI port drives MISO with the byte read, or with
0x00 for a byte written; Port C drives SDA with the byte read, or releases it and acknowledges the byte written. The byte read is
the one its location shows before the access, 0 during LOADING. The other ports' transports do not change. -/
def Clause.AccessDrivesLines : Prop :=
  ∀ (i : Instr) (p : Port) (x : Access) (a next r : Byte) (s : State), i.wellFormed = true → i.access = some (p, x) →
    s.transfer p = some (x.isWrite, a) → s.ready = false ∨ s.rowTakes p i (s.target p a) = true →
    next = (if a = 0x13 then a else a + 1) →
    (s.ready = false → r = 0) →
    (s.ready = true →
      (∀ l, s.target p a = .page l → r = s.pageByte p l) ∧ ∀ l, s.target p a = .image l → r = s.imageByte p l) →
    ∃ t, exec i s = .next t ∧
      (∀ q : SpiPort, (q.port = p → t.spi q = ⟨.data x.isWrite next, some (if x.isWrite then 0 else r)⟩) ∧
        (q.port ≠ p → t.spi q = s.spi q)) ∧
      (p = .c → t.i2c =
        { s.i2c with current := next, sda := if x.isWrite then none else some r, ack := x.isWrite }) ∧
      (p ≠ .c → t.i2c = s.i2c)

/-- Once start-up is over, a command whose location is not one its row takes changes nothing: the model's choice (log entry
1). -/
def Clause.AccessOfAnotherRow : Prop :=
  ∀ (i : Instr) (p : Port) (x : Access) (a : Byte) (s : State), i.access = some (p, x) →
    s.Stands p x.isWrite a → s.rowTakes p i (s.target p a) = false → exec i s = .next s.settle

/-- An access moves its transport on and drives the port's lines; one sent as another row's does nothing. -/
def Obligations.AccessAdvancesAddress : Prop :=
  Clause.AccessMovesTransport ∧ Clause.AccessDrivesLines ∧ Clause.AccessOfAnotherRow

/-! ### The port page -/

/-- EVENTS_WRITE: each sticky flag written with 1 is cleared, CAPTURE_READY is not touched. -/
def Clause.EventsWriteClearsFlags : Prop :=
  ∀ (p : Port) (v : Byte) (s : State), s.Stands p true 0x05 →
    exec (.eventsWrite p v) s = .next
      ((s.modPort p fun c => { c with events := c.events &&& ~~~(v &&& 0xFE) }).accessDone p true 0x05 0)

/-- EVENT_ENABLE_WRITE: all eight enables are replaced. -/
def Clause.EventEnableWriteReplaces : Prop :=
  ∀ (p : Port) (v : Byte) (s : State), s.Stands p true 0x06 →
    exec (.eventEnableWrite p v) s = .next ((s.modPort p fun c => { c with enables := v }).accessDone p true 0x06 0)

/-- EVENTS_WRITE and EVENT_ENABLE_WRITE. -/
def Obligations.EventRegisterWrites : Prop := Clause.EventsWriteClearsFlags ∧ Clause.EventEnableWriteReplaces

/-- PORT_STATUS_WRITE: each sticky status flag written with 1 is cleared. -/
def Clause.PortStatusWriteClears : Prop :=
  ∀ (p : Port) (v : Byte) (s : State), s.Stands p true 0x04 →
    exec (.portStatusWrite p v) s = .next
      ((s.modPort p fun c =>
        { c with
          accessRefused := if v.getLsbD 1 then false else c.accessRefused
          stageDiscarded := if v.getLsbD 2 then false else c.stageDiscarded
          cmdOverrun := if v.getLsbD 3 then false else c.cmdOverrun }).accessDone p true 0x04 0)

/-- PAGE_WRITE and PTR_WRITE: PAGE takes the low six bits, PTR one byte of its two. -/
def Clause.PageAndPointerWrites : Prop :=
  ∀ (p : Port) (v : Byte) (s : State),
    (s.Stands p true 0x10 → exec (.pageWrite p v) s = .next
      ((s.modPort p fun c => { c with page := v.extractLsb' 0 6 }).accessDone p true 0x10 0)) ∧
    (s.Stands p true 0x11 → exec (.ptrWrite p v) s = .next
      ((s.modPort p fun c => { c with pointer := c.pointer.extractLsb' 8 5 ++ v }).accessDone p true 0x11 0)) ∧
    (s.Stands p true 0x12 → exec (.ptrWrite p v) s = .next
      ((s.modPort p fun c =>
        { c with pointer := v.extractLsb' 0 5 ++ c.pointer.extractLsb' 0 8 }).accessDone p true 0x12 0))

/-- PORT_STATUS_WRITE, PAGE_WRITE and PTR_WRITE. -/
def Obligations.PortRegisterWrites : Prop := Clause.PortStatusWriteClears ∧ Clause.PageAndPointerWrites

/-- DATA_ACCESS reaches the image location in PTR by its owner's rules, and PTR moves on by one. -/
def Obligations.DataAccessStreams : Prop :=
  ∀ (p : Port) (s : State),
    (s.Stands p false 0x13 → ∃ t, exec (.dataAccess p .read) s = .next t ∧
      (t.port p).pointer = (s.port p).pointer + 1 ∧
      ((∀ i, ImageLocation.at (s.port p).pointer ≠ .inputState i) →
        t = s.accessDone p false 0x13 (s.imageByte p (.at (s.port p).pointer))) ∧
      ∀ i, ImageLocation.at (s.port p).pointer = .inputState i →
        t = (s.modPort p fun c => { c with snapshot := some (s.copyRecord i) }).accessDone p false 0x13
          (s.slot i).input.state.code) ∧
    (∀ v, s.Stands p true 0x13 → ∃ t, exec (.dataAccess p (.write v)) s = .next t ∧
      (t.port p).pointer = (s.port p).pointer + 1 ∧
      t = (s.writeImage p (.at (s.port p).pointer) v).accessDone p true 0x13 0)

/-- PLAIN_WRITE by a write: ARG0 to ARG2 take the byte, a read-only location sets ACCESS_REFUSED, an unassigned one does
nothing. -/
def Clause.PlainWrites : Prop :=
  ∀ (p : Port) (v a : Byte) (s : State), s.Stands p true a →
    (a = 0x09 → exec (.plainWrite p (.write v)) s = .next
      ((s.modCommand p fun c => { c with arg0 := v }).accessDone p true a 0)) ∧
    (a = 0x0A → exec (.plainWrite p (.write v)) s = .next
      ((s.modCommand p fun c => { c with arg1 := v }).accessDone p true a 0)) ∧
    (a = 0x0B → exec (.plainWrite p (.write v)) s = .next
      ((s.modCommand p fun c => { c with arg2 := v }).accessDone p true a 0)) ∧
    (a.toNat ≤ 0x03 ∨ a = 0x0C ∨ a = 0x0D ∨ (0x14 ≤ a.toNat ∧ a.toNat ≤ 0x16) ∨ (0x20 ≤ a.toNat ∧ a.toNat ≤ 0x2F) →
      exec (.plainWrite p (.write v)) s = .next
        ((s.modPort p fun c => { c with accessRefused := true }).accessDone p true a 0)) ∧
    (a = 0x07 ∨ a = 0x0E ∨ a = 0x0F ∨ (0x17 ≤ a.toNat ∧ a.toNat ≤ 0x1F) ∨ (0x30 ≤ a.toNat ∧ a.toNat ≤ 0x3F) →
      exec (.plainWrite p (.write v)) s = .next (s.accessDone p true a 0))

/-- PLAIN_WRITE to the image space: every byte of an input record, a health field, the owner, the capture area and the
status and identity pages set ACCESS_REFUSED; an unassigned image address does nothing. -/
def Clause.ReadOnlyImageWrites : Prop :=
  ∀ (p : Port) (v a : Byte) (l : ImageLocation) (s : State), s.Stands p true a → s.target p a = .image l →
    ((∃ i off, l = .inputState i ∨ l = .inputByte i off ∨ l = .commitCount i ∨ l = .outputLength i ∨
        l = .health i off ∨ l = .owner i ∨ l = .capture off ∨ l = .linkStatus off ∨ l = .captureStatus off ∨
        l = .identity off) →
      exec (.plainWrite p (.write v)) s = .next
        ((s.modPort p fun c => { c with accessRefused := true }).accessDone p true a 0)) ∧
    (l = .unassigned → exec (.plainWrite p (.write v)) s = .next (s.accessDone p true a 0))

/-- A write, as PLAIN_WRITE or through DATA, to a read-only or an unassigned image address: the tables of section 11.3. -/
def Clause.ImageWritesByAddress : Prop :=
  ∀ (c : Instr) (p : Port) (v a : Byte) (n : BitVec 13) (s : State),
    c = .plainWrite p (.write v) ∨ (c = .dataAccess p (.write v) ∧ a = 0x13) → s.Stands p true a → s.AtImage p a n →
    ((∃ (i : Fin 16) (o : Nat), n.toNat = o + 128 * i.val ∧
          (o ≤ 0x14 ∨ o = 0x20 ∨ o = 0x21 ∨ (0x40 ≤ o ∧ o ≤ 0x50))) ∨
        (0x1000 ≤ n.toNat ∧ n.toNat ≤ 0x1204) ∨ (0x1280 ≤ n.toNat ∧ n.toNat ≤ 0x1285) ∨
        (0x1300 ≤ n.toNat ∧ n.toNat ≤ 0x1304) →
      exec c s = .next ((s.modPort p fun y => { y with accessRefused := true }).accessDone p true a 0)) ∧
    ((∃ (i : Fin 16) (o : Nat), n.toNat = o + 128 * i.val ∧
          ((0x15 ≤ o ∧ o ≤ 0x1F) ∨ (0x33 ≤ o ∧ o ≤ 0x3F) ∨ (0x51 ≤ o ∧ o ≤ 0x7F))) ∨
        (∃ (i : Fin 16) (o : Nat), n.toNat = 0x0800 + o + 128 * i.val ∧ (o = 0x07 ∨ (0x18 ≤ o ∧ o ≤ 0x7F))) ∨
        (0x1205 ≤ n.toNat ∧ n.toNat ≤ 0x120F) ∨ (0x1222 ≤ n.toNat ∧ n.toNat ≤ 0x127F) ∨
        (0x1286 ≤ n.toNat ∧ n.toNat ≤ 0x12FF) ∨ (0x1305 ≤ n.toNat ∧ n.toNat ≤ 0x137F) ∨ 0x1380 ≤ n.toNat →
      exec c s = .next (s.accessDone p true a 0))

/-- PLAIN_WRITE by a read (log entry 13): the byte is returned and nothing but the transport and PTR changes. -/
def Clause.PlainReadsReturnByte : Prop :=
  ∀ (p : Port) (a : Byte) (s : State), s.Stands p false a →
    (∀ l, s.target p a = .page l → (∀ w, l = .window w (.data 0) → (s.window p w).fetch = false) →
      exec (.plainWrite p .read) s = .next (s.accessDone p false a (s.pageByte p l))) ∧
    (∀ l, s.target p a = .image l → (∀ i, l ≠ .inputState i) →
      exec (.plainWrite p .read) s = .next (s.accessDone p false a (s.imageByte p l)))

/-! ### The command slot -/

/-- A write of CMD other than PORT_CLEAR while the slot is IN_PROGRESS sets CMD_OVERRUN and does nothing else. -/
def Clause.CommandWhileInProgressOverruns : Prop :=
  ∀ (i : Instr) (p : Port) (s : State), i.wellFormed = true → i.commandOf = some p → s.Stands p true 0x08 →
    (s.command p).inProgress = true →
    exec i s = .next ((s.modPort p fun c => { c with cmdOverrun := true }).accessDone p true 0x08 0)

/-- UNKNOWN_COMMAND: a code that names no command is taken into CMD and nothing else happens. -/
def Clause.UnknownCodeIsAnswered : Prop :=
  ∀ (p : Port) (code : Byte) (s : State), code = 0 ∨ 0x11 ≤ code.toNat → s.CanCommand p →
    exec (.unknownCommand p code) s = .next (s.commandDone p code .unknownCommand code)

/-- CMD_OVERRUN, and codes that name no command. -/
def Obligations.CommandSlotTaking : Prop := Clause.CommandWhileInProgressOverruns ∧ Clause.UnknownCodeIsAnswered

/-- The commands with a role check, from a port whose role they do not permit: REFUSED_ROLE with RES_DETAIL 0. -/
def Clause.RoleRefusals : Prop :=
  ∀ (p : Port) (s : State), s.CanCommand p →
    (s.role p = .observe →
      exec (.claim p) s = .next (s.commandDone p 0x01 .refusedRole 0) ∧
        exec (.restart p) s = .next (s.commandDone p 0x06 .refusedRole 0)) ∧
    (s.role p ≠ .supervise →
      exec (.revoke p) s = .next (s.commandDone p 0x03 .refusedRole 0) ∧
        exec (.enable p) s = .next (s.commandDone p 0x04 .refusedRole 0) ∧
        exec (.disable p) s = .next (s.commandDone p 0x05 .refusedRole 0) ∧
        exec (.linkStart p) s = .next (s.commandDone p 0x0E .refusedRole 0) ∧
        exec (.linkStop p) s = .next (s.commandDone p 0x0F .refusedRole 0) ∧
        exec (.saveConfig p) s = .next (s.commandDone p 0x10 .refusedRole 0))

/-- The commands that name a slot or a window, with an index out of range and a role they permit: BAD_ARG with RES_DETAIL
0xF0. -/
def Clause.IndexRefusals : Prop :=
  ∀ (p : Port) (s : State), s.CanCommand p →
    (16 ≤ (s.command p).arg0.toNat →
      exec (.release p) s = .next (s.commandDone p 0x02 .badArg 0xF0) ∧
        exec (.clearLatch p) s = .next (s.commandDone p 0x07 .badArg 0xF0) ∧
        (s.role p ≠ .observe →
          exec (.claim p) s = .next (s.commandDone p 0x01 .badArg 0xF0) ∧
            exec (.restart p) s = .next (s.commandDone p 0x06 .badArg 0xF0)) ∧
        (s.role p = .supervise →
          exec (.revoke p) s = .next (s.commandDone p 0x03 .badArg 0xF0) ∧
            exec (.enable p) s = .next (s.commandDone p 0x04 .badArg 0xF0) ∧
            exec (.disable p) s = .next (s.commandDone p 0x05 .badArg 0xF0))) ∧
    (4 ≤ (s.command p).arg0.toNat → exec (.cancel p) s = .next (s.commandDone p 0x0C .badArg 0xF0))

/-- REFUSED_ROLE and BAD_ARG for an index. -/
def Obligations.CommandCheckRefusals : Prop := Clause.RoleRefusals ∧ Clause.IndexRefusals

/-! ### Output ownership -/

/-- CLAIM: an unowned slot gets the port as its owner; a slot the port owns is left; another port's is refused. -/
def Obligations.ClaimByOwner : Prop :=
  ∀ (p : Port) (i : Fin 16) (s : State), s.CanCommand p → s.NamesSlot p i → s.role p ≠ .observe →
    ((s.slot i).owner = none → exec (.claim p) s = .next
      ((s.modSlot i fun x => { x with owner := some p }).commandDone p 0x01 .done p.code)) ∧
    ((s.slot i).owner = some p → exec (.claim p) s = .next (s.commandDone p 0x01 .done p.code)) ∧
    ∀ q, q ≠ p → (s.slot i).owner = some q →
      exec (.claim p) s = .next (s.commandDone p 0x01 .refusedOwned q.code)

/-- RELEASE: the owner's claim ends and the release policy is applied; any other port gets NOT_OWNER. -/
def Clause.ReleaseEndsClaim : Prop :=
  ∀ (p : Port) (i : Fin 16) (s : State), s.CanCommand p → s.NamesSlot p i →
    ((s.slot i).owner = some p → (s.slot i).config.releaseSafe = false → exec (.release p) s = .next
      ((s.modSlot i fun x => { x with owner := none }).commandDone p 0x02 .done 1)) ∧
    ((s.slot i).owner = some p → (s.slot i).config.releaseSafe = true → exec (.release p) s = .next
      ((s.modSlot i fun x =>
        { x with owner := none, output := { x.output with committed := x.config.safeOutput } }).commandDone p 0x02 .done
          2)) ∧
    ((s.slot i).owner = none → exec (.release p) s = .next (s.commandDone p 0x02 .notOwner 0)) ∧
    ∀ q, q ≠ p → (s.slot i).owner = some q →
      exec (.release p) s = .next (s.commandDone p 0x02 .notOwner q.code)

/-- REVOKE: an unowned slot is left; the owner of an owned one goes, under the release policy, with CLAIM_LOST in its port and
its stage discarded if it holds the slot. -/
def Clause.RevokeTakesOutputs : Prop :=
  ∀ (p : Port) (i : Fin 16) (s : State), s.CanCommand p → s.NamesSlot p i → s.role p = .supervise →
    ((s.slot i).owner = none → exec (.revoke p) s = .next (s.commandDone p 0x03 .done 0)) ∧
    ∀ q, (s.slot i).owner = some q → exec (.revoke p) s = .next
      (((s.modSlot i fun x =>
          { x with
            owner := none
            output := if x.config.releaseSafe then { x.output with committed := x.config.safeOutput } else x.output
          }).modPort q fun c =>
          { c with
            events := c.events ||| 0x10
            stageDiscarded := c.stageDiscarded || c.stage.any fun g => g.slot = i
            stage := c.stage.filter fun g => g.slot ≠ i }).commandDone p 0x03 .done
        (if (s.slot i).config.releaseSafe then 2 else 1))

/-- The two commands that end a claim. -/
def Obligations.ReleaseAndRevoke : Prop := Clause.ReleaseEndsClaim ∧ Clause.RevokeTakesOutputs

/-- OUTPUT_BYTE_WRITE: role, range, load, write. -/
def Obligations.OutputByteWriteBuildsStage : Prop :=
  ∀ (p : Port) (v a : Byte) (i k : Fin 16) (s : State), s.Stands p true a → s.target p a = .image (.output i k) →
    (s.role p = .observe ∨ (s.slot i).config.outputLength.toNat ≤ k.val → exec (.outputByteWrite p v) s = .next
      ((s.modPort p fun c => { c with accessRefused := true }).accessDone p true a 0)) ∧
    (s.role p ≠ .observe → k.val < (s.slot i).config.outputLength.toNat →
      ((s.port p).stage = none → exec (.outputByteWrite p v) s = .next
        ((s.modPort p fun c =>
          { c with stage := some ⟨i, (s.slot i).output.committed.set k v⟩ }).accessDone p true a 0)) ∧
      (∀ g, (s.port p).stage = some g → g.slot = i → exec (.outputByteWrite p v) s = .next
        ((s.modPort p fun c => { c with stage := some ⟨i, g.bytes.set k v⟩ }).accessDone p true a 0)) ∧
      (∀ g, (s.port p).stage = some g → g.slot ≠ i → exec (.outputByteWrite p v) s = .next
        ((s.modPort p fun c =>
          { c with
            stage := some ⟨i, (s.slot i).output.committed.set k v⟩
            stageDiscarded := true }).accessDone p true a 0)))

/-- COMMIT, as its own row or through DATA, at the commit location +0x32 of the slot's runtime page: by the stage and the owner,
whatever the value written. -/
def Obligations.CommitByStageAndOwner : Prop :=
  ∀ (c : Instr) (p : Port) (v a : Byte) (n : BitVec 13) (i : Fin 16) (s : State),
    c = .commit p v ∨ (c = .dataAccess p (.write v) ∧ a = 0x13) → s.Stands p true a → s.AtImage p a n →
    n.toNat = 0x32 + 128 * i.val →
    ((∀ g, (s.port p).stage = some g → g.slot ≠ i) → exec c s = .next (s.accessDone p true a 0)) ∧
    (∀ g, (s.port p).stage = some g → g.slot = i →
      ((s.slot i).owner = some p ∨ ((s.slot i).owner = none ∧ s.role p = .supervise) →
        exec c s = .next
          (((s.modPort p fun y => { y with stage := none }).modSlot i fun x =>
            { x with output := ⟨g.bytes, x.output.commitCount + 1⟩ }).accessDone p true a 0)) ∧
      (((∃ q, q ≠ p ∧ (s.slot i).owner = some q) ∨ ((s.slot i).owner = none ∧ s.role p ≠ .supervise)) →
        exec c s = .next
          ((s.modPort p fun y => { y with stage := none, accessRefused := true }).accessDone p true a 0)))

/-! ### Slots and station health -/

/-- ENABLE by a SUPERVISE port: address 0, an address another slot that is not DISABLED holds, a slot that is not DISABLED, and
the accepted enable with its records. -/
def Obligations.EnableBySupervise : Prop :=
  ∀ (p : Port) (i : Fin 16) (s : State), s.CanCommand p → s.NamesSlot p i → s.role p = .supervise →
    ((s.slot i).config.address = 0 → exec (.enable p) s = .next (s.commandDone p 0x04 .badArg 0xF1)) ∧
    (1 ≤ (s.slot i).config.address.toNat → (s.slot i).config.address.toNat ≤ 62 →
      (∀ j, j ≠ i → (s.slot j).health.state ≠ .disabled → (s.slot j).config.address = (s.slot i).config.address →
        s.AddressesUnique → exec (.enable p) s = .next (s.commandDone p 0x04 .badArg (BitVec.ofNat 8 j.val))) ∧
      ((∀ j, j ≠ i → (s.slot j).health.state ≠ .disabled → (s.slot j).config.address ≠ (s.slot i).config.address) →
        ((s.slot i).health.state ≠ .disabled → exec (.enable p) s = .next
          (s.commandDone p 0x04 .refusedState (s.slot i).health.state.code)) ∧
        ((s.slot i).health.state = .disabled → exec (.enable p) s = .next
          (((s.modSlot i fun x =>
              { x with
                health := ⟨.probing, .first, 0, 0, 0, 0, none, .none, 0, 0, 0, 0, 0⟩
                input := ⟨.never, false, false, false, 0, 0, Vector.replicate 16 0, false⟩
                output := ⟨x.config.safeOutput, 0⟩ }).modPorts fun c =>
              { c with events := c.events ||| 0x08 }).commandDone p 0x04 .done 1))))

/-- DISABLE by a SUPERVISE port: a DISABLED slot is left; any other is set DISABLED with its counts and causes kept, and its
input record NEVER. Here no request is queued or pending for the slot and none is in flight. -/
def Clause.DisableBySupervise : Prop :=
  ∀ (p : Port) (i : Fin 16) (s : State), s.CanCommand p → s.NamesSlot p i → s.role p = .supervise →
    ((s.slot i).health.state = .disabled → exec (.disable p) s = .next (s.commandDone p 0x05 .done 0)) ∧
    ((s.slot i).health.state ≠ .disabled → (∀ r ∈ s.queue, r.slot ≠ i) → (∀ h, s.handed = some h → h.slot ≠ i) →
      (∀ x, s.engine.exchange = some x → x.slot ≠ i) →
      exec (.disable p) s = .next
        (((s.modSlot i fun x =>
            { x with
              health := { x.health with
                state := .disabled, round := .first, quick := 0, rounds := 0, consecutive := 0, backoff := 0 }
              input := ⟨.never, false, false, false, 0, 0, Vector.replicate 16 0, false⟩ }).modPorts fun c =>
            { c with events := c.events ||| 0x08 }).commandDone p 0x05 .done 0))

/-- DISABLE of a slot that is not DISABLED, whatever requests it has: `u` has the slot off and SLOT_CHANGE in every port, its
queued records gone with their windows FAILED(SLOT_LEFT) and WINDOW_DONE, and its exchange in flight marked for discard. With no
request of the slot pending at the engine that is all. A pending one is withdrawn (a READ or WRITE ends its window), and in
RUNNING the next turn is taken. -/
def Clause.DisableWithRequests : Prop :=
  ∀ (p : Port) (i : Fin 16) (s u : State), s.CanCommand p → s.NamesSlot p i → s.role p = .supervise →
    (s.slot i).health.state ≠ .disabled →
    u = ((((s.modSlot i fun x =>
          { x with
            health := { x.health with
              state := .disabled, round := .first, quick := 0, rounds := 0, consecutive := 0, backoff := 0 }
            input := ⟨.never, false, false, false, 0, 0, Vector.replicate 16 0, false⟩ }).modPorts fun c =>
          { c with events := c.events ||| 0x08 }).requestsRemoved (fun r => r.slot = i) .slotLeft).modSched fun c =>
          { c with discard := c.discard || s.engine.exchange.any fun x => x.slot = i }) →
    ((∀ h, s.handed = some h → h.slot ≠ i) → exec (.disable p) s = .next (u.commandDone p 0x05 .done 0)) ∧
    ∀ k, s.handed = some ⟨k, i⟩ →
      ∃ v t, exec (.disable p) s = .next (t.commandDone p 0x05 .done 0) ∧ u.WithdrawnGives k .slotLeft v ∧
        (s.sched.link ≠ .running → t = v) ∧ (s.sched.link = .running → v.TurnGives t)

/-- DISABLE, without and with requests for the slot. -/
def Obligations.DisableTakesSlotOff : Prop := Clause.DisableBySupervise ∧ Clause.DisableWithRequests

/-- RESTART by a CONTROL or SUPERVISE port: a LOCKED_OUT slot enters PROBING with a FIRST round; any other is refused. -/
def Clause.RestartLockedOut : Prop :=
  ∀ (p : Port) (i : Fin 16) (s : State), s.CanCommand p → s.NamesSlot p i → s.role p ≠ .observe →
    ((s.slot i).health.state = .lockedOut → exec (.restart p) s = .next
      (((s.modSlot i fun x =>
          { x with health :=
            { x.health with state := .probing, round := .first, rounds := 0, quick := 0, lockCause := .none } }).modPorts
          fun c => { c with events := c.events ||| 0x08 }).commandDone p 0x06 .done 1)) ∧
    ((s.slot i).health.state ≠ .lockedOut → exec (.restart p) s = .next
      (s.commandDone p 0x06 .refusedState (s.slot i).health.state.code))

/-- CLEAR_LATCH by the owner or a SUPERVISE port clears ERR; any other port gets NOT_OWNER. -/
def Clause.ClearLatchByAuthority : Prop :=
  ∀ (p : Port) (i : Fin 16) (s : State), s.CanCommand p → s.NamesSlot p i →
    ((s.slot i).owner = some p ∨ s.role p = .supervise → exec (.clearLatch p) s = .next
      ((s.modSlot i fun x => { x with input := { x.input with err := false } }).commandDone p 0x07 .done
        (if (s.slot i).input.err then 1 else 0))) ∧
    (s.role p ≠ .supervise → (s.slot i).owner = none → exec (.clearLatch p) s = .next
      (s.commandDone p 0x07 .notOwner 0)) ∧
    (s.role p ≠ .supervise → ∀ q, q ≠ p → (s.slot i).owner = some q → exec (.clearLatch p) s = .next
      (s.commandDone p 0x07 .notOwner q.code))

/-- RESTART and CLEAR_LATCH. -/
def Obligations.RestartAndClearLatch : Prop := Clause.RestartLockedOut ∧ Clause.ClearLatchByAuthority

/-- The evidence of a failed exchange on an ACTIVE or SUSPECT slot: SUSPECT below the limit, loss at it. -/
def Clause.FailureLeadsToSuspectOrLoss : Prop :=
  ∀ (cfg : SlotConfig) (c : LiveConfig) (k : Kind) (f : LinkFailure) (h : Health), k ≠ .ident →
    (h.state = .active → 2 ≤ c.suspectLimit.toNat → h.report cfg c k (.failed f) =
      { h with
        state := .suspect
        consecutive := 1
        failureCount := if h.failureCount = 0xFFFF then 0xFFFF else h.failureCount + 1
        lastFailure := some f }) ∧
    (h.state = .suspect → h.consecutive + 1 < c.suspectLimit.toNat → h.report cfg c k (.failed f) =
      { h with
        consecutive := h.consecutive + 1
        failureCount := if h.failureCount = 0xFFFF then 0xFFFF else h.failureCount + 1
        lastFailure := some f }) ∧
    ((h.state = .active ∧ c.suspectLimit.toNat = 1) ∨
        (h.state = .suspect ∧ c.suspectLimit.toNat ≤ h.consecutive + 1) →
      h.report cfg c k (.failed f) =
        { h with
          state := .backoff
          round := .rejoin
          rounds := 0
          quick := 0
          consecutive := 0
          backoff := 8 * c.backoffCode.toNat
          lossCount := if h.lossCount = 0xFF then 0xFF else h.lossCount + 1
          failureCount := if h.failureCount = 0xFFFF then 0xFFFF else h.failureCount + 1
          lastFailure := some f })

/-- The evidence of an IDENT on a PROBING slot, every health field of it. A good one: the counts, class and revision, then LOCKED_OUT
for class or shape, or ACTIVE. A failed one: the counts and one more quick attempt, then another attempt, LOCKED_OUT for silence,
or BACKOFF. A field not named keeps its value. -/
def Clause.ProbeOutcomes : Prop :=
  ∀ (cfg : SlotConfig) (c : LiveConfig) (h g : Health), h.state = .probing →
    (∀ r : Reply,
      g = { h with
        goodCount := h.goodCount + 1
        reportedClass := r.payload.getD 0 0 ++ r.payload.getD 1 0
        reportedRevision := r.payload.getD 2 0 } →
      (cfg.expectedClass ≠ 0 ∧ g.reportedClass ≠ cfg.expectedClass →
        h.report cfg c .ident (.success r) = { g with state := .lockedOut, lockCause := .wrongClass }) ∧
      (cfg.expectedClass = 0 ∨ g.reportedClass = cfg.expectedClass →
        (r.payload.getD 3 0 ≠ cfg.inputLength ∨ r.payload.getD 4 0 ≠ cfg.outputLength →
          h.report cfg c .ident (.success r) = { g with state := .lockedOut, lockCause := .wrongShape }) ∧
        (r.payload.getD 3 0 = cfg.inputLength → r.payload.getD 4 0 = cfg.outputLength →
          h.report cfg c .ident (.success r) = { g with state := .active, consecutive := 0, rounds := 0, quick := 0 }))) ∧
    ∀ (f : LinkFailure) (count n : Nat),
      g = { h with
        quick := h.quick + 1
        failureCount := if h.failureCount = 0xFFFF then 0xFFFF else h.failureCount + 1
        lastFailure := some f } →
      count = (match h.round with | .first => c.firstQuick.toNat | .rejoin => c.rejoinQuick.toNat) →
      (n = if h.rounds < 7 then h.rounds + 1 else h.rounds) →
      (h.quick + 1 < count → h.report cfg c .ident (.failed f) = g) ∧
      (count ≤ h.quick + 1 →
        (c.lockoutRounds ≠ 0 → c.lockoutRounds.toNat ≤ n →
          h.report cfg c .ident (.failed f) = { g with state := .lockedOut, rounds := n, lockCause := .noResponse }) ∧
        (c.lockoutRounds = 0 ∨ n < c.lockoutRounds.toNat →
          h.report cfg c .ident (.failed f) =
            { g with
              state := .backoff, rounds := n, backoff := 8 * c.backoffCode.toNat, round := .rejoin, quick := 0 }))

/-- The evidence of a good report that is no IDENT's: an ACTIVE slot stays ACTIVE, a SUSPECT one is ACTIVE again, and the good count
is one on. -/
def Clause.GoodReportKeepsOrRestores : Prop :=
  ∀ (cfg : SlotConfig) (c : LiveConfig) (k : Kind) (r : Reply) (h : Health), k ≠ .ident →
    (h.state = .active → h.report cfg c k (.success r) = { h with goodCount := h.goodCount + 1 }) ∧
    (h.state = .suspect → h.report cfg c k (.success r) =
      { h with state := .active, consecutive := 0, goodCount := h.goodCount + 1 })

/-- The reports that only count: one that is no IDENT's on a PROBING, BACKOFF or LOCKED_OUT slot, and an IDENT's on a slot that is
neither PROBING nor DISABLED. For an IDENT on an ACTIVE or SUSPECT slot R48 is followed against the words of R49 and R50 (log
entry 21). A DISABLED slot does not change at all. -/
def Clause.ReportsThatOnlyCount : Prop :=
  ∀ (cfg : SlotConfig) (c : LiveConfig) (k : Kind) (d : Decision) (h : Health),
    (h.state = .disabled → h.report cfg c k d = h) ∧
    ((k ≠ .ident ∧ (h.state = .probing ∨ h.state = .backoff ∨ h.state = .lockedOut)) ∨
        (k = .ident ∧ h.state ≠ .probing ∧ h.state ≠ .disabled) →
      (∀ r, d = .success r → h.report cfg c k d = { h with goodCount := h.goodCount + 1 }) ∧
      ∀ f, d = .failed f → h.report cfg c k d =
        { h with
          failureCount := if h.failureCount = 0xFFFF then 0xFFFF else h.failureCount + 1
          lastFailure := some f })

/-- What evidence leaves in the state: the slot's health part, SLOT_CHANGE in every port where the health state changes, and at a
loss the LOST record and the requests removed. -/
def Clause.EvidenceChangesSlot : Prop :=
  ∀ (s : State) (i : Fin 16) (k : Kind) (d : Decision),
    s.healthEvidence i k d = s.healthTaken i ((s.slot i).health.report (s.slot i).config s.config k d)

/-- The last byte of a good CYCLIC reply of a SUSPECT slot outside the event-source set: the slot is ACTIVE again, SLOT_CHANGE is
set in every port, the record is updated, and the next turn of the cycle follows. -/
def Clause.GoodReplyRestoresSuspect : Prop :=
  ∀ (c : Instr) (x : Exchange) (y : Reply) (s : State), s.Decides c x (.success y) → x.kind = .cyclic →
    s.sched.link = .running → s.sched.discard = false → (s.slot x.slot).health.state = .suspect →
    s.config.eventSet.getLsbD x.slot.val = false →
    ∃ t, exec c s = .next t.settle ∧
      State.TurnGives
        (State.recordUpdated
          { (s.modSlot x.slot fun z =>
              { z with health :=
                { z.health with state := .active, consecutive := 0, goodCount := z.health.goodCount + 1 } }).modPorts
              fun z => { z with events := z.events ||| 0x08 } with
            engine := .quiet x.rate .quietEntry } x.slot y) t

/-- The evidence of every report by the slot's health state, and what it leaves in the state. -/
def Obligations.HealthEvidence : Prop :=
  Clause.FailureLeadsToSuspectOrLoss ∧ Clause.ProbeOutcomes ∧ Clause.GoodReportKeepsOrRestores ∧
    Clause.ReportsThatOnlyCount ∧ Clause.EvidenceChangesSlot ∧ Clause.GoodReplyRestoresSuspect

/-- The cycle-end work on one slot: backoff counts down to PROBING, a record not updated ages, and FRESH and STALE follow the
stale limit. -/
def Obligations.CycleEndWorkOnSlot : Prop :=
  ∀ (x : Slot) (limit : Byte),
    (x.cycleEnd limit).config = x.config ∧ (x.cycleEnd limit).output = x.output ∧
    (x.cycleEnd limit).owner = x.owner ∧
    (x.health.state ≠ .backoff → (x.cycleEnd limit).health = x.health) ∧
    (x.health.state = .backoff → 1 < x.health.backoff →
      (x.cycleEnd limit).health = { x.health with backoff := x.health.backoff - 1 }) ∧
    (x.health.state = .backoff → x.health.backoff = 1 →
      (x.cycleEnd limit).health = { x.health with state := .probing, backoff := 0, quick := 0 }) ∧
    (x.input.state = .never → (x.cycleEnd limit).input = { x.input with updated := false }) ∧
    (x.input.state ≠ .never → (x.cycleEnd limit).input.age =
      if x.input.updated = true ∨ x.input.age = 0xFF then x.input.age else x.input.age + 1) ∧
    (x.input.state = .fresh ∨ x.input.state = .stale → (x.cycleEnd limit).input.state =
      if (x.cycleEnd limit).input.age.toNat ≤ limit.toNat then .fresh else .stale) ∧
    (x.input.state = .lost → (x.cycleEnd limit).input.state = .lost) ∧
    (x.cycleEnd limit).input.updated = false ∧ (x.cycleEnd limit).input.data = x.input.data ∧
    (x.cycleEnd limit).input.generation = x.input.generation ∧ (x.cycleEnd limit).input.err = x.input.err ∧
    (x.cycleEnd limit).input.warn = x.input.warn ∧ (x.cycleEnd limit).input.evt = x.input.evt

/-- SLOT_CONFIG_WRITE: taken from a SUPERVISE port, for a DISABLED slot, with a value in range; refused otherwise. -/
def Obligations.SlotConfigWriteTaken : Prop :=
  ∀ (p : Port) (v a : Byte) (i : Fin 16) (f : ConfigField) (s : State), s.Stands p true a →
    s.target p a = .image (.config i f) →
    (s.role p = .supervise → (s.slot i).health.state = .disabled →
      (f = .address → v.toNat ≤ 62 → exec (.slotConfigWrite p v) s = .next
        ((s.modSlot i fun x => { x with config := { x.config with address := v } }).accessDone p true a 0)) ∧
      (f = .options → exec (.slotConfigWrite p v) s = .next
        ((s.modSlot i fun x => { x with config := { x.config with
          enableAtStart := v.getLsbD 0, errLatch := v.getLsbD 1, errSafe := v.getLsbD 2,
          releaseSafe := v.getLsbD 3 } }).accessDone p true a 0)) ∧
      (f = .classLow → exec (.slotConfigWrite p v) s = .next
        ((s.modSlot i fun x => { x with config := { x.config with
          expectedClass := x.config.expectedClass.extractLsb' 8 8 ++ v } }).accessDone p true a 0)) ∧
      (f = .classHigh → exec (.slotConfigWrite p v) s = .next
        ((s.modSlot i fun x => { x with config := { x.config with
          expectedClass := v ++ x.config.expectedClass.extractLsb' 0 8 } }).accessDone p true a 0)) ∧
      (f = .inputLength → v.toNat ≤ 16 → exec (.slotConfigWrite p v) s = .next
        ((s.modSlot i fun x => { x with config := { x.config with inputLength := v } }).accessDone p true a 0)) ∧
      (f = .outputLength → v.toNat ≤ 16 → exec (.slotConfigWrite p v) s = .next
        ((s.modSlot i fun x => { x with config := { x.config with outputLength := v } }).accessDone p true a 0)) ∧
      (f = .pollDivider → 1 ≤ v.toNat → v.toNat ≤ 8 → exec (.slotConfigWrite p v) s = .next
        ((s.modSlot i fun x => { x with config := { x.config with pollDivider := v } }).accessDone p true a 0)) ∧
      ∀ k, f = .safe k → exec (.slotConfigWrite p v) s = .next
        ((s.modSlot i fun x => { x with config := { x.config with
          safeOutput := x.config.safeOutput.set k v } }).accessDone p true a 0)) ∧
    (s.role p ≠ .supervise ∨ (s.slot i).health.state ≠ .disabled ∨ (f = .address ∧ 63 ≤ v.toNat) ∨
        ((f = .inputLength ∨ f = .outputLength) ∧ 17 ≤ v.toNat) ∨ (f = .pollDivider ∧ (v = 0 ∨ 9 ≤ v.toNat)) →
      exec (.slotConfigWrite p v) s = .next
        ((s.modPort p fun c => { c with accessRefused := true }).accessDone p true a 0))

/-! ### Remote windows -/

/-- DESCRIPTOR_STORE: refused while the window is busy, and for a slot above 15; otherwise the field takes the byte. -/
def Clause.DescriptorStoreTaken : Prop :=
  ∀ (p : Port) (v a : Byte) (w : Fin 4) (f : WindowField) (s : State), s.Stands p true a →
    s.target p a = .page (.window w f) → f.isDescriptor = true →
    ((s.window p w).state = .queued ∨ (s.window p w).state = .inFlight ∨ (s.window p w).state = .cancelling ∨
        (f = .slot ∧ 16 ≤ v.toNat) →
      exec (.descriptorStore p v) s = .next
        ((s.modPort p fun c => { c with accessRefused := true }).accessDone p true a 0)) ∧
    ((s.window p w).state = .idle ∨ (s.window p w).state = .done ∨ (s.window p w).state = .failed →
      (∀ i : Fin 16, f = .slot → v.toNat = i.val → exec (.descriptorStore p v) s = .next
        ((s.modWindow p w fun x => { x with slot := i }).accessDone p true a 0)) ∧
      (f = .mode → exec (.descriptorStore p v) s = .next
        ((s.modWindow p w fun x => { x with fetch := v.getLsbD 0, step := v.getLsbD 1 }).accessDone p true a 0)) ∧
      (f = .addressLow → exec (.descriptorStore p v) s = .next
        ((s.modWindow p w fun x => { x with address := x.address.extractLsb' 8 8 ++ v }).accessDone p true a 0)) ∧
      (f = .addressHigh → exec (.descriptorStore p v) s = .next
        ((s.modWindow p w fun x => { x with address := v ++ x.address.extractLsb' 0 8 }).accessDone p true a 0)) ∧
      (f = .mask → exec (.descriptorStore p v) s = .next
        ((s.modWindow p w fun x => { x with mask := v.extractLsb' 0 4 }).accessDone p true a 0)))

/-- PLAIN_WRITE to a window row: state, cause and cause detail are read-only, the unassigned locations ignore it. -/
def Clause.WindowReadOnlyWrites : Prop :=
  ∀ (p : Port) (v a : Byte) (w : Fin 4) (f : WindowField) (s : State), s.Stands p true a →
    s.target p a = .page (.window w f) →
    (f = .state ∨ f = .cause ∨ f = .detail → exec (.plainWrite p (.write v)) s = .next
      ((s.modPort p fun c => { c with accessRefused := true }).accessDone p true a 0)) ∧
    (f = .unassigned → exec (.plainWrite p (.write v)) s = .next (s.accessDone p true a 0))

/-- PLAIN_WRITE by a write, on the port page, the window rows and the image space. -/
def Obligations.ReadOnlyAndPlainWrites : Prop :=
  Clause.PlainWrites ∧ Clause.WindowReadOnlyWrites ∧ Clause.ReadOnlyImageWrites ∧ Clause.ImageWritesByAddress

/-- WINDOW_FLAGS_WRITE: a value with bit 0 set clears OVERRUN, any other leaves it. -/
def Clause.WindowFlagsWriteClearsOverrun : Prop :=
  ∀ (p : Port) (v a : Byte) (w : Fin 4) (s : State), s.Stands p true a → s.target p a = .page (.window w .flags) →
    exec (.windowFlagsWrite p v) s = .next
      ((s.modWindow p w fun x => { x with overrun := if v.getLsbD 0 then false else x.overrun }).accessDone p true a 0)

/-- DATA_BYTE_STORE in FETCH mode or at an unmarked byte: the assembly buffer takes the byte and nothing more. -/
def Clause.DataByteStoreFillsAssembly : Prop :=
  ∀ (p : Port) (v a : Byte) (w k : Fin 4) (s : State), s.Stands p true a →
    s.target p a = .page (.window w (.data k)) →
    (s.window p w).fetch = true ∨ (s.window p w).mask.getLsbD k.val = false →
    exec (.dataByteStore p v) s = .next
      ((s.modWindow p w fun x => { x with assembly := x.assembly.set k v }).accessDone p true a 0)

/-- DESCRIPTOR_STORE, WINDOW_FLAGS_WRITE and DATA_BYTE_STORE. -/
def Obligations.WindowStores : Prop :=
  Clause.DescriptorStoreTaken ∧ Clause.WindowFlagsWriteClearsOverrun ∧ Clause.DataByteStoreFillsAssembly

/-- WRITE_TRIGGER, and DATA_BYTE_STORE at a marked byte in WRITE mode: busy, role, owner, health, room, accepted, in this
order. -/
def Obligations.WriteTriggerChecks : Prop :=
  ∀ (c : Instr) (p : Port) (v a : Byte) (w k : Fin 4) (s : State), c = .writeTrigger p v ∨ c = .dataByteStore p v →
    s.Stands p true a → s.target p a = .page (.window w (.data k)) →
    (s.window p w).fetch = false → (s.window p w).mask.getLsbD k.val = true →
    ((s.window p w).state = .queued ∨ (s.window p w).state = .inFlight ∨ (s.window p w).state = .cancelling →
      exec c s = .next
        ((s.modWindow p w fun x =>
          { x with assembly := x.assembly.set k v, overrun := true }).accessDone p true a 0)) ∧
    ((s.window p w).state = .idle ∨ (s.window p w).state = .done ∨ (s.window p w).state = .failed →
      (∀ cause, ((s.role p = .observe ∧ cause = .role) ∨
          (s.role p = .control ∧ (∃ q, q ≠ p ∧ (s.slot (s.window p w).slot).owner = some q) ∧ cause = .notOwner) ∨
          ((s.role p = .supervise ∨ (s.role p = .control ∧
              ((s.slot (s.window p w).slot).owner = none ∨ (s.slot (s.window p w).slot).owner = some p))) ∧
            (((s.slot (s.window p w).slot).health.state ≠ .active ∧
                (s.slot (s.window p w).slot).health.state ≠ .suspect ∧ cause = .notActive) ∨
              (((s.slot (s.window p w).slot).health.state = .active ∨
                  (s.slot (s.window p w).slot).health.state = .suspect) ∧ 8 ≤ s.queue.length ∧
                cause = .queueFull)))) →
        exec c s = .next
          (((s.modWindow p w fun x =>
              { x with assembly := x.assembly.set k v, state := .failed, cause := cause, detail := 0 }).modPort p
            fun y => { y with events := y.events ||| 0x04 }).accessDone p true a 0)) ∧
      ((s.role p = .supervise ∨ (s.role p = .control ∧
          ((s.slot (s.window p w).slot).owner = none ∨ (s.slot (s.window p w).slot).owner = some p))) →
        (s.slot (s.window p w).slot).health.state = .active ∨
          (s.slot (s.window p w).slot).health.state = .suspect →
        s.queue.length < 8 →
        exec c s = .next
          (({ s.modWindow p w fun x =>
              { x with
                assembly := x.assembly.set k v
                state := .queued
                cause := .none
                detail := 0
                address := if x.step then x.address + 4 else x.address } with
              queue := s.queue ++
                [⟨p, w, (s.window p w).slot, .write ((s.window p w).assembly.set k v), (s.window p w).address, 0⟩]
            } : State).accessDone p true a 0)))

/-- FETCH_TRIGGER: the read returns result byte 0 as it stood; busy, health, room, accepted, in this order. -/
def Obligations.FetchTriggerChecks : Prop :=
  ∀ (p : Port) (a : Byte) (w : Fin 4) (s : State), s.Stands p false a → s.target p a = .page (.window w (.data 0)) →
    (s.window p w).fetch = true →
    ((s.window p w).state = .queued ∨ (s.window p w).state = .inFlight ∨ (s.window p w).state = .cancelling →
      exec (.fetchTrigger p) s = .next
        ((s.modWindow p w fun x => { x with overrun := true }).accessDone p false a (s.window p w).result[0])) ∧
    ((s.window p w).state = .idle ∨ (s.window p w).state = .done ∨ (s.window p w).state = .failed →
      (∀ cause, (((s.slot (s.window p w).slot).health.state ≠ .active ∧
              (s.slot (s.window p w).slot).health.state ≠ .suspect ∧ cause = .notActive) ∨
            (((s.slot (s.window p w).slot).health.state = .active ∨
                (s.slot (s.window p w).slot).health.state = .suspect) ∧ 8 ≤ s.queue.length ∧ cause = .queueFull)) →
        exec (.fetchTrigger p) s = .next
          (((s.modWindow p w fun x => { x with state := .failed, cause := cause, detail := 0 }).modPort p
            fun y => { y with events := y.events ||| 0x04 }).accessDone p false a (s.window p w).result[0])) ∧
      ((s.slot (s.window p w).slot).health.state = .active ∨ (s.slot (s.window p w).slot).health.state = .suspect →
        s.queue.length < 8 →
        exec (.fetchTrigger p) s = .next
          (({ s.modWindow p w fun x =>
              { x with
                state := .queued
                cause := .none
                detail := 0
                address := if x.step then x.address + 4 else x.address } with
              queue := s.queue ++ [⟨p, w, (s.window p w).slot, .read, (s.window p w).address, 0⟩]
            } : State).accessDone p false a (s.window p w).result[0])))

/-- CANCEL by the window's state. -/
def Obligations.CancelByWindowState : Prop :=
  ∀ (p : Port) (w : Fin 4) (s : State), s.CanCommand p → (s.command p).arg0.toNat = w.val →
    ((s.window p w).state = .queued → exec (.cancel p) s = .next
      ((({ s.modWindow p w fun x => { x with state := .failed, cause := .cancelled, detail := 0 } with
          queue := s.queue.filter fun r => ¬(r.port = p ∧ r.window = w) } : State).modPort p
        fun c => { c with events := c.events ||| 0x04 }).commandDone p 0x0C .done 5)) ∧
    ((s.window p w).state = .inFlight → exec (.cancel p) s = .next
      ((s.modWindow p w fun x => { x with state := .cancelling, cause := .none, detail := 0 }).commandDone p 0x0C
        .done 3)) ∧
    ((s.window p w).state = .cancelling → exec (.cancel p) s = .next (s.commandDone p 0x0C .done 3)) ∧
    ((s.window p w).state = .idle → exec (.cancel p) s = .next (s.commandDone p 0x0C .done 0)) ∧
    ((s.window p w).state = .done → exec (.cancel p) s = .next (s.commandDone p 0x0C .done 4)) ∧
    ((s.window p w).state = .failed → exec (.cancel p) s = .next (s.commandDone p 0x0C .done 5))

/-- A good report applied to an IN_FLIGHT window: BUSY, a non-zero result, result 0. -/
def Clause.GoodReportAtWindow : Prop :=
  ∀ (s : State) (r : Request) (y : Reply), s.out = some r → (s.window r.port r.window).state = .inFlight →
    (y.busy = false → y.payload.getD 0 0 ≠ 0 → s.windowReport (.success y) =
      (({ s with out := none } : State).modWindow r.port r.window fun w =>
        { w with state := .failed, cause := .rejected, detail := y.payload.getD 0 0 }).modPort r.port
        fun c => { c with events := c.events ||| 0x04 }) ∧
    (y.busy = false → y.payload.getD 0 0 = 0 → r.kind = .read → s.windowReport (.success y) =
      (({ s with out := none } : State).modWindow r.port r.window fun w =>
        { w with
          state := .done
          cause := .none
          detail := 0
          result := Vector.ofFn fun k : Fin 4 => y.payload.getD (k.val + 1) 0 }).modPort r.port
        fun c => { c with events := c.events ||| 0x04 }) ∧
    (∀ d, y.busy = false → y.payload.getD 0 0 = 0 → r.kind = .write d → s.windowReport (.success y) =
      (({ s with out := none } : State).modWindow r.port r.window fun w =>
        { w with state := .done, cause := .none, detail := 0 }).modPort r.port
        fun c => { c with events := c.events ||| 0x04 }) ∧
    (y.busy = true → r.busy < 2 → (s.slot r.slot).health.state = .active → s.queue.length < 8 →
      s.windowReport (.success y) =
        { ({ s with out := none } : State).modWindow r.port r.window fun w =>
            { w with state := .queued, cause := .none, detail := 0 } with
          queue := s.queue ++ [{ r with busy := r.busy + 1 }] }) ∧
    (y.busy = true → r.busy = 2 → s.windowReport (.success y) =
      (({ s with out := none } : State).modWindow r.port r.window fun w =>
        { w with state := .failed, cause := .busy, detail := 0 }).modPort r.port
        fun c => { c with events := c.events ||| 0x04 })

/-- The other ends of the record out: a failed READ or WRITE, a BUSY reply whose slot has left or that finds the queue full, a BUSY
reply of a SUSPECT slot that rejoins, and a window that was cancelled or whose port was cleared. -/
def Clause.OtherReportsAtWindow : Prop :=
  ∀ (s : State) (r : Request), s.out = some r →
    ((s.window r.port r.window).state = .inFlight →
      (∀ f, s.windowReport (.failed f) = s.outFailed r (.link f) 0) ∧
      ∀ y : Reply, y.busy = true → r.busy < 2 →
        ((s.slot r.slot).health.state ≠ .active → (s.slot r.slot).health.state ≠ .suspect →
          s.windowReport (.success y) = s.outFailed r .slotLeft 0) ∧
        ((s.slot r.slot).health.state = .active ∨ (s.slot r.slot).health.state = .suspect →
          (8 ≤ s.queue.length → s.windowReport (.success y) = s.outFailed r .queueFull 0) ∧
          (s.queue.length < 8 → s.windowReport (.success y) =
            { ({ s with out := none } : State).modWindow r.port r.window fun w =>
                { w with state := .queued, cause := .none, detail := 0 } with
              queue := s.queue ++ [{ r with busy := r.busy + 1 }] }))) ∧
    ((s.window r.port r.window).state = .cancelling → ∀ d : Decision,
      ((s.window r.port r.window).clearMark = false → s.windowReport d = s.outFailed r .cancelled 0) ∧
      ((s.window r.port r.window).clearMark = true → s.windowReport d = s.outCleared r))

/-- Every event that decides a READ or WRITE in RUNNING, without the discard mark: its report is evidence of the slot's health, then
the window unit's, with BUSY and the payload of a good reply, and the next turn of the cycle follows. -/
def Clause.ReportReachesWindow : Prop :=
  ∀ (c : Instr) (x : Exchange) (d : Decision) (s : State), s.Decides c x d → x.kind = .read ∨ x.kind = .write →
    s.sched.link = .running → s.sched.discard = false →
    ∃ t, exec c s = .next t.settle ∧ ((s.evidenceTaken x d).windowReport d).TurnGives t

/-- How the record out ends. -/
def Obligations.GoodReplyEndsWindow : Prop :=
  Clause.GoodReportAtWindow ∧ Clause.OtherReportsAtWindow ∧ Clause.ReportReachesWindow

/-! ### The process image and the capture ring -/

/-- TAKE_SNAPSHOT, as its own row or through DATA, at the state byte +0x00 of the slot's runtime page: the whole live record is
copied into the port's snapshot and its state byte is returned. -/
def Obligations.TakeSnapshotCopiesRecord : Prop :=
  ∀ (c : Instr) (p : Port) (a : Byte) (n : BitVec 13) (i : Fin 16) (s : State),
    c = .takeSnapshot p ∨ (c = .dataAccess p .read ∧ a = 0x13) → s.Stands p false a → s.AtImage p a n →
    n.toNat = 128 * i.val →
    exec c s = .next
      ((s.modPort p fun y =>
        { y with
          snapshot := some
            ⟨i, (s.slot i).input.state, (s.slot i).input.err, (s.slot i).input.warn, (s.slot i).input.evt,
              (s.slot i).input.generation, (s.slot i).input.age, (s.slot i).config.inputLength,
              (s.slot i).input.data⟩ }).accessDone p false a
        (match (s.slot i).input.state with
          | .never => 0
          | .fresh => 1
          | .stale => 2
          | .lost => 3))

/-- A read of another byte of an input record comes from the port's snapshot if it holds the slot, from the live record
otherwise. -/
def Clause.SnapshotServesReads : Prop :=
  ∀ (p : Port) (a : Byte) (i : Fin 16) (off : Nat) (s : State), s.Stands p false a →
    s.target p a = .image (.inputByte i off) →
    (∀ r, (s.port p).snapshot = some r → r.slot = i →
      exec (.plainWrite p .read) s = .next (s.accessDone p false a (r.byte off))) ∧
    ((∀ r, (s.port p).snapshot = some r → r.slot ≠ i) →
      exec (.plainWrite p .read) s = .next (s.accessDone p false a ((s.copyRecord i).byte off)))

/-- What the port page shows at 0x00 to 0x3F, less DATA: the table of section 11.1 and its codes. -/
def Clause.PortPageReads : Prop :=
  ∀ (p : Port) (a v : Byte) (s : State), s.Stands p false a →
    (a = 0x00 ∧ v = 0x16) ∨ (a = 0x01 ∧ v = 0x01) ∨
      (a = 0x02 ∧ v = match p with | .a => 0x0A | .b => 0x0B | .c => 0x0C) ∨
      (a = 0x03 ∧ v = match s.role p with | .control => 0 | .observe => 1 | .supervise => 2) ∨
      (a = 0x04 ∧ v = (0 : BitVec 3) ++ BitVec.ofBool (s.port p).snapshot.isSome ++
        BitVec.ofBool (s.port p).cmdOverrun ++ BitVec.ofBool (s.port p).stageDiscarded ++
        BitVec.ofBool (s.port p).accessRefused ++ (1 : BitVec 1)) ∨
      (a = 0x05 ∧ v = (s.port p).events) ∨ (a = 0x06 ∧ v = (s.port p).enables) ∨
      (a = 0x08 ∧ v = (s.command p).code) ∨ (a = 0x09 ∧ v = (s.command p).arg0) ∨
      (a = 0x0A ∧ v = (s.command p).arg1) ∨ (a = 0x0B ∧ v = (s.command p).arg2) ∨
      (a = 0x0C ∧ v = match (s.command p).result with
        | .none => 0 | .done => 1 | .inProgress => 2 | .refusedRole => 3 | .refusedState => 4 | .badArg => 5
        | .refusedOwned => 6 | .notOwner => 7 | .empty => 8 | .busy => 9 | .failedVerify => 10
        | .unknownCommand => 11) ∨
      (a = 0x0D ∧ v = (s.command p).detail) ∨ (a = 0x10 ∧ v = (0 : BitVec 2) ++ (s.port p).page) ∨
      (a = 0x11 ∧ v = (s.port p).pointer.extractLsb' 0 8) ∨
      (a = 0x12 ∧ v = (0 : BitVec 3) ++ (s.port p).pointer.extractLsb' 8 5) ∨
      (a = 0x14 ∧ v = match s.sched.link with | .stopped => 0 | .running => 1 | .stopping => 2) ∨
      (a = 0x15 ∧ v = s.sched.cycle.extractLsb' 0 8) ∨ (a = 0x16 ∧ v = s.sched.cycle.extractLsb' 8 8) ∨
      (∃ i : Fin 16, a.toNat = 0x20 + i.val ∧ v = match (s.slot i).health.state with
        | .disabled => 0 | .probing => 1 | .active => 2 | .suspect => 3 | .backoff => 4 | .lockedOut => 5) ∨
      ((a = 0x07 ∨ a = 0x0E ∨ a = 0x0F ∨ (0x17 ≤ a.toNat ∧ a.toNat ≤ 0x1F) ∨
        (0x30 ≤ a.toNat ∧ a.toNat ≤ 0x3F)) ∧ v = 0) →
    exec (.plainWrite p .read) s = .next (s.accessDone p false a v)

/-- What a window row shows: the table of section 11.1, with the codes of R97. -/
def Clause.WindowRowReads : Prop :=
  ∀ (p : Port) (w : Fin 4) (a v : Byte) (s : State), s.Stands p false a →
    (a.toNat = 0x40 + 16 * w.val ∧ v = BitVec.ofNat 8 (s.window p w).slot.val) ∨
      (a.toNat = 0x41 + 16 * w.val ∧
        v = (0 : BitVec 6) ++ BitVec.ofBool (s.window p w).step ++ BitVec.ofBool (s.window p w).fetch) ∨
      (a.toNat = 0x42 + 16 * w.val ∧ v = (s.window p w).address.extractLsb' 0 8) ∨
      (a.toNat = 0x43 + 16 * w.val ∧ v = (s.window p w).address.extractLsb' 8 8) ∨
      (a.toNat = 0x44 + 16 * w.val ∧ v = (0 : BitVec 4) ++ (s.window p w).mask) ∨
      (a.toNat = 0x45 + 16 * w.val ∧ v = match (s.window p w).state with
        | .idle => 0 | .queued => 1 | .inFlight => 2 | .cancelling => 3 | .done => 4 | .failed => 5) ∨
      (a.toNat = 0x46 + 16 * w.val ∧ v = match (s.window p w).cause with
        | .none => 0 | .link .noReply => 1 | .link .badCheck => 2 | .link .badEcho => 3 | .link .badLength => 4
        | .rejected => 5 | .busy => 6 | .slotLeft => 7 | .linkStopped => 8 | .cancelled => 9 | .role => 10
        | .notOwner => 11 | .notActive => 12 | .queueFull => 13) ∨
      (a.toNat = 0x47 + 16 * w.val ∧ v = (0 : BitVec 7) ++ BitVec.ofBool (s.window p w).overrun) ∨
      (∃ k : Fin 4, a.toNat = 0x48 + 16 * w.val + k.val ∧ ((s.window p w).fetch = false ∨ k ≠ 0) ∧
        v = (s.window p w).result[k]) ∨
      (a.toNat = 0x4C + 16 * w.val ∧ v = (s.window p w).detail) ∨
      (0x4D + 16 * w.val ≤ a.toNat ∧ a.toNat ≤ 0x4F + 16 * w.val ∧ v = 0) →
    exec (.plainWrite p .read) s = .next (s.accessDone p false a v)

/-- What an input record's bytes past the state byte show: section 11.3.1, from the snapshot or the live record (R76), 0 at and
beyond the length (R61). -/
def Clause.InputRecordReads : Prop :=
  ∀ (c : Instr) (p : Port) (i : Fin 16) (r : RecordCopy) (a v : Byte) (n : BitVec 13) (s : State),
    c = .plainWrite p .read ∨ (c = .dataAccess p .read ∧ a = 0x13) → s.Stands p false a → s.AtImage p a n →
    s.Shows p i r →
    (n.toNat = 0x01 + 128 * i.val ∧
        v = (0 : BitVec 5) ++ BitVec.ofBool r.evt ++ BitVec.ofBool r.warn ++ BitVec.ofBool r.err) ∨
      (n.toNat = 0x02 + 128 * i.val ∧ v = r.generation) ∨ (n.toNat = 0x03 + 128 * i.val ∧ v = r.age) ∨
      (n.toNat = 0x04 + 128 * i.val ∧ v = r.length) ∨
      (∃ k : Fin 16, n.toNat = 0x05 + 128 * i.val + k.val ∧ v = if k.val < r.length.toNat then r.data[k] else 0) →
    exec c s = .next (s.accessDone p false a v)

/-- What a slot's runtime page shows past the input record: section 11.3.1. Output bytes at and beyond the output length read 0
(R72), and so does the commit location (R89). -/
def Clause.RuntimePageReads : Prop :=
  ∀ (c : Instr) (p : Port) (i : Fin 16) (a v : Byte) (n : BitVec 13) (x : Slot) (s : State),
    c = .plainWrite p .read ∨ (c = .dataAccess p .read ∧ a = 0x13) → s.Stands p false a → s.AtImage p a n →
    x = s.slot i →
    (n.toNat = 0x20 + 128 * i.val ∧ v = x.output.commitCount) ∨
      (n.toNat = 0x21 + 128 * i.val ∧ v = x.config.outputLength) ∨
      (∃ k : Fin 16, n.toNat = 0x22 + 128 * i.val + k.val ∧
        v = if k.val < x.config.outputLength.toNat then x.output.committed[k] else 0) ∨
      (n.toNat = 0x40 + 128 * i.val ∧ v = match x.health.state with
        | .disabled => 0 | .probing => 1 | .active => 2 | .suspect => 3 | .backoff => 4 | .lockedOut => 5) ∨
      (n.toNat = 0x41 + 128 * i.val ∧ v = match x.health.lastFailure with
        | none => 0 | some .noReply => 1 | some .badCheck => 2 | some .badEcho => 3 | some .badLength => 4) ∨
      (n.toNat = 0x42 + 128 * i.val ∧ v = match x.health.lockCause with
        | .none => 0 | .noResponse => 1 | .wrongClass => 2 | .wrongShape => 3) ∨
      (n.toNat = 0x43 + 128 * i.val ∧ v = BitVec.ofNat 8 x.health.consecutive) ∨
      (n.toNat = 0x44 + 128 * i.val ∧ v = BitVec.ofNat 8 x.health.quick) ∨
      (n.toNat = 0x45 + 128 * i.val ∧ v = BitVec.ofNat 8 x.health.rounds) ∨
      (n.toNat = 0x46 + 128 * i.val ∧ v = (BitVec.ofNat 16 x.health.backoff).extractLsb' 0 8) ∨
      (n.toNat = 0x47 + 128 * i.val ∧ v = (BitVec.ofNat 16 x.health.backoff).extractLsb' 8 8) ∨
      (n.toNat = 0x48 + 128 * i.val ∧ v = match x.owner with
        | none => 0 | some .a => 1 | some .b => 2 | some .c => 3) ∨
      (n.toNat = 0x49 + 128 * i.val ∧ v = x.health.goodCount.extractLsb' 0 8) ∨
      (n.toNat = 0x4A + 128 * i.val ∧ v = x.health.goodCount.extractLsb' 8 8) ∨
      (n.toNat = 0x4B + 128 * i.val ∧ v = x.health.failureCount.extractLsb' 0 8) ∨
      (n.toNat = 0x4C + 128 * i.val ∧ v = x.health.failureCount.extractLsb' 8 8) ∨
      (n.toNat = 0x4D + 128 * i.val ∧ v = x.health.lossCount) ∨
      (n.toNat = 0x4E + 128 * i.val ∧ v = x.health.reportedClass.extractLsb' 0 8) ∨
      (n.toNat = 0x4F + 128 * i.val ∧ v = x.health.reportedClass.extractLsb' 8 8) ∨
      (n.toNat = 0x50 + 128 * i.val ∧ v = x.health.reportedRevision) ∨
      ((∃ o, n.toNat = o + 128 * i.val ∧ ((0x15 ≤ o ∧ o ≤ 0x1F) ∨ (0x32 ≤ o ∧ o ≤ 0x3F) ∨ (0x51 ≤ o ∧ o ≤ 0x7F))) ∧
        v = 0) →
    exec c s = .next (s.accessDone p false a v)

/-- What a slot's configuration page shows: section 11.3.2. -/
def Clause.ConfigurationPageReads : Prop :=
  ∀ (c : Instr) (p : Port) (i : Fin 16) (a v : Byte) (n : BitVec 13) (x : SlotConfig) (s : State),
    c = .plainWrite p .read ∨ (c = .dataAccess p .read ∧ a = 0x13) → s.Stands p false a → s.AtImage p a n →
    x = (s.slot i).config →
    (n.toNat = 0x0800 + 128 * i.val ∧ v = x.address) ∨
      (n.toNat = 0x0801 + 128 * i.val ∧ v = (0 : BitVec 4) ++ BitVec.ofBool x.releaseSafe ++ BitVec.ofBool x.errSafe ++
        BitVec.ofBool x.errLatch ++ BitVec.ofBool x.enableAtStart) ∨
      (n.toNat = 0x0802 + 128 * i.val ∧ v = x.expectedClass.extractLsb' 0 8) ∨
      (n.toNat = 0x0803 + 128 * i.val ∧ v = x.expectedClass.extractLsb' 8 8) ∨
      (n.toNat = 0x0804 + 128 * i.val ∧ v = x.inputLength) ∨ (n.toNat = 0x0805 + 128 * i.val ∧ v = x.outputLength) ∨
      (n.toNat = 0x0806 + 128 * i.val ∧ v = x.pollDivider) ∨
      (∃ k : Fin 16, n.toNat = 0x0808 + 128 * i.val + k.val ∧ v = x.safeOutput[k]) ∨
      ((n.toNat = 0x0807 + 128 * i.val ∨
        (0x0818 + 128 * i.val ≤ n.toNat ∧ n.toNat ≤ 0x087F + 128 * i.val)) ∧ v = 0) →
    exec c s = .next (s.accessDone p false a v)

/-- What the capture read area shows: section 11.3.3 and R129. With a record at the port's cursor its header and its entries, and 0
past the last entry; with none, 0 everywhere. -/
def Clause.CaptureAreaReads : Prop :=
  ∀ (c : Instr) (p : Port) (a v : Byte) (n : BitVec 13) (s : State),
    c = .plainWrite p .read ∨ (c = .dataAccess p .read ∧ a = 0x13) → s.Stands p false a → s.AtImage p a n →
    0x1000 ≤ n.toNat → n.toNat ≤ 0x11FF →
    (((s.port p).cursor = none ∨ ∃ k, (s.port p).cursor = some k ∧ k.unread = 0) ∧ v = 0) ∨
      (∃ k r, (s.port p).cursor = some k ∧ 0 < k.unread ∧
        s.capture.ring[s.capture.ring.length - k.unread]? = some r ∧
        ((n = 0x1000 ∧ v = 1) ∨ (n = 0x1001 ∧ v = r.sequence.extractLsb' 0 8) ∨
          (n = 0x1002 ∧ v = r.sequence.extractLsb' 8 8) ∨
          (n = 0x1003 ∧ v = match r.source with | .pin => 0 | .timer => 1 | .station _ => 2 | .command _ => 3) ∨
          (n = 0x1004 ∧ v = match r.source with
            | .pin => 0 | .timer => 0 | .station j => BitVec.ofNat 8 j.val
            | .command .a => 1 | .command .b => 2 | .command .c => 3) ∨
          (n = 0x1005 ∧ v = r.cycle.extractLsb' 0 8) ∨ (n = 0x1006 ∧ v = r.cycle.extractLsb' 8 8) ∨
          (n = 0x1007 ∧ v = r.lostBefore) ∨ (n = 0x1008 ∧ v = BitVec.ofNat 8 r.entries.length) ∨
          (∃ e y, r.entries[e]? = some y ∧
            ((n.toNat = 0x1009 + 22 * e ∧ v = BitVec.ofNat 8 y.slot.val) ∨
              (n.toNat = 0x100A + 22 * e ∧
                v = match y.state with | .never => 0 | .fresh => 1 | .stale => 2 | .lost => 3) ∨
              (n.toNat = 0x100B + 22 * e ∧
                v = (0 : BitVec 5) ++ BitVec.ofBool y.evt ++ BitVec.ofBool y.warn ++ BitVec.ofBool y.err) ∨
              (n.toNat = 0x100C + 22 * e ∧ v = y.generation) ∨ (n.toNat = 0x100D + 22 * e ∧ v = y.age) ∨
              (n.toNat = 0x100E + 22 * e ∧ v = y.length) ∨
              ∃ j : Fin 16, n.toNat = 0x100F + 22 * e + j.val ∧ v = y.data[j])) ∨
          (0x1009 + 22 * r.entries.length ≤ n.toNat ∧ v = 0))) →
    exec c s = .next (s.accessDone p false a v)

/-- What the settings page shows: section 11.3.4. -/
def Clause.SettingsPageReads : Prop :=
  ∀ (c : Instr) (p : Port) (a v : Byte) (n : BitVec 13) (code : Role → BitVec 2) (s : State),
    c = .plainWrite p .read ∨ (c = .dataAccess p .read ∧ a = 0x13) → s.Stands p false a → s.AtImage p a n →
    code .control = 0 → code .observe = 1 → code .supervise = 2 →
    (n = 0x1200 ∧ v = match s.sched.link with | .stopped => 0 | .running => 1 | .stopping => 2) ∨
      (n = 0x1201 ∧ v = s.sched.cycle.extractLsb' 0 8) ∨ (n = 0x1202 ∧ v = s.sched.cycle.extractLsb' 8 8) ∨
      (n = 0x1203 ∧ v = s.sched.overruns.extractLsb' 0 8) ∨ (n = 0x1204 ∧ v = s.sched.overruns.extractLsb' 8 8) ∨
      (n = 0x1210 ∧ v = BitVec.ofBool s.config.autoStart ++ (0 : BitVec 5) ++ s.config.bitRate) ∨
      (n = 0x1211 ∧ v = s.config.period) ∨ (n = 0x1212 ∧ v = s.config.timeout) ∨
      (n = 0x1213 ∧ v = s.config.allowance) ∨ (n = 0x1214 ∧ v = s.config.staleLimit) ∨
      (n = 0x1215 ∧ v = s.config.suspectLimit) ∨ (n = 0x1216 ∧ v = s.config.firstQuick) ∨
      (n = 0x1217 ∧ v = s.config.rejoinQuick) ∨ (n = 0x1218 ∧ v = s.config.backoffCode) ∨
      (n = 0x1219 ∧ v = s.config.lockoutRounds) ∨
      (n = 0x121A ∧ v = (0 : BitVec 2) ++ code s.config.roles.c ++ code s.config.roles.b ++ code s.config.roles.a) ∨
      (n = 0x121B ∧ v = (0 : BitVec 5) ++ BitVec.ofBool s.config.linkstatFault ++
        BitVec.ofBool s.config.linkstatInvert ++ BitVec.ofBool s.config.linkstatHealth) ∨
      (n = 0x121C ∧ v = match s.config.pinEdge with | .off => 0 | .rising => 1 | .falling => 2 | .both => 3) ∨
      (n = 0x121D ∧ v = s.config.timerDivider) ∨ (n = 0x121E ∧ v = s.config.captureSet.extractLsb' 0 8) ∨
      (n = 0x121F ∧ v = s.config.captureSet.extractLsb' 8 8) ∨ (n = 0x1220 ∧ v = s.config.eventSet.extractLsb' 0 8) ∨
      (n = 0x1221 ∧ v = s.config.eventSet.extractLsb' 8 8) ∨
      (((0x1205 ≤ n.toNat ∧ n.toNat ≤ 0x120F) ∨ (0x1222 ≤ n.toNat ∧ n.toNat ≤ 0x127F)) ∧ v = 0) →
    exec c s = .next (s.accessDone p false a v)

/-- What the capture status page (R131, 11.3.5), the identity page (R165, 11.3.6) and the unassigned pages (R176) show. -/
def Clause.StatusPagesRead : Prop :=
  ∀ (c : Instr) (p : Port) (a v : Byte) (n : BitVec 13) (s : State),
    c = .plainWrite p .read ∨ (c = .dataAccess p .read ∧ a = 0x13) → s.Stands p false a → s.AtImage p a n →
    (n = 0x1280 ∧ v = (0 : BitVec 5) ++ BitVec.ofBool (s.port .c).cursor.isSome ++
        BitVec.ofBool (s.port .b).cursor.isSome ++ BitVec.ofBool (s.port .a).cursor.isSome) ∨
      (n = 0x1281 ∧ v = BitVec.ofNat 8 s.capture.ring.length) ∨
      (n = 0x1282 ∧ v = s.capture.sequence.extractLsb' 0 8) ∨ (n = 0x1283 ∧ v = s.capture.sequence.extractLsb' 8 8) ∨
      (n = 0x1284 ∧ v = s.capture.lost) ∨
      (n = 0x1285 ∧ v = match (s.port p).cursor with | none => 0 | some k => BitVec.ofNat 8 k.unread) ∨
      (n = 0x1300 ∧ v = 0x16) ∨ (n = 0x1301 ∧ v = 0x01) ∨
      (n = 0x1302 ∧ v = match s.store.state with | .valid => 1 | .defaulted => 2 | .saving => 3) ∨
      (n = 0x1303 ∧ v = match s.store.resetCause with | .powerOn => 1 | .pin => 2) ∨
      (n = 0x1304 ∧ v = match s.store.lastSave with | .none => 0 | .done => 1 | .inProgress => 2 | .failedVerify => 10) ∨
      (((0x1286 ≤ n.toNat ∧ n.toNat ≤ 0x12FF) ∨ (0x1305 ≤ n.toNat ∧ n.toNat ≤ 0x137F) ∨ 0x1380 ≤ n.toNat) ∧ v = 0) →
    exec c s = .next (s.accessDone p false a v)

/-- Where the byte of a read appears: on MISO of the SPI port that reads, on SDA of Port C. -/
def Clause.ReadByteAppears : Prop :=
  ∀ (p : Port) (a r : Byte) (s : State),
    (∀ q : SpiPort, q.port = p → ((s.accessDone p false a r).spi q).miso = some r) ∧
      (p = .c → (s.accessDone p false a r).i2c.sda = some r)

/-- PLAIN_WRITE by a read, the snapshot behind it, the values every location shows, and where the byte appears. -/
def Obligations.ReadsReturnByte : Prop :=
  Clause.ReadByteAppears ∧ Clause.PlainReadsReturnByte ∧ Clause.SnapshotServesReads ∧ Clause.PortPageReads ∧ Clause.WindowRowReads ∧
    Clause.InputRecordReads ∧ Clause.RuntimePageReads ∧ Clause.ConfigurationPageReads ∧ Clause.CaptureAreaReads ∧
    Clause.SettingsPageReads ∧ Clause.StatusPagesRead

/-- A good cyclic reply with EVT for a slot of the event-source set makes a STATION request when the record has been updated. -/
def Clause.StationCaptureFollowsUpdate : Prop :=
  ∀ (s u : State) (i : Fin 16) (r : Reply), (s.slot i).health.state = .active ∨ (s.slot i).health.state = .suspect →
    r.evt = true → s.config.eventSet.getLsbD i.val = true →
    (u = s.modSlot i fun x =>
      { x with input :=
        { state := .fresh
          err := if x.config.errLatch then r.err || x.input.err else r.err
          warn := r.warn
          evt := true
          generation := x.input.generation + 1
          age := 0
          data := Vector.ofFn fun k : Fin 16 =>
            if k.val < x.config.inputLength.toNat then r.payload.getD k.val 0 else 0
          updated := true } }) →
    (¬s.HasSubscriber → s.applyCyclic i r = u) ∧
    (s.HasSubscriber → 8 ≤ s.capture.ring.length → s.applyCyclic i r = u.captureLostOnce) ∧
    (s.HasSubscriber → s.capture.ring.length < 8 → s.applyCyclic i r = u.captureRecordedOnce (.station i))

/-- CAPT_EDGE: no request, or a PIN request that is dropped, lost or recorded. An edge is judged by the level it brings, also where
CAPT is held at that level already, and by the setting in force at the end of the hold: the model's choices (log entries 24 and
26). -/
def Clause.CaptEdgeMakesPinRequest : Prop :=
  ∀ (level : Level) (s : State), ∃ t, t = { s with pins := { s.pins with capt := level } } ∧
    (s.config.pinEdge = .off ∨ (s.config.pinEdge = .rising ∧ level = .low) ∨
        (s.config.pinEdge = .falling ∧ level = .high) ∨ ¬s.HasSubscriber →
      exec (.captEdge level) s = .next t.settle) ∧
    (s.config.pinEdge = .both ∨ (s.config.pinEdge = .rising ∧ level = .high) ∨
        (s.config.pinEdge = .falling ∧ level = .low) → s.HasSubscriber →
      (8 ≤ s.capture.ring.length → exec (.captEdge level) s = .next t.captureLostOnce.settle) ∧
      (s.capture.ring.length < 8 → exec (.captEdge level) s = .next (t.captureRecordedOnce .pin).settle))

/-- CAPTURE_NOW: recorded, lost or dropped, with RES_DETAIL 0, 1 or 2. -/
def Clause.CaptureNowReportsFate : Prop :=
  ∀ (p : Port) (s : State), s.CanCommand p →
    (¬s.HasSubscriber → exec (.captureNow p) s = .next (s.commandDone p 0x0B .done 2)) ∧
    (s.HasSubscriber → 8 ≤ s.capture.ring.length → exec (.captureNow p) s = .next
      (s.captureLostOnce.commandDone p 0x0B .done 1)) ∧
    (s.HasSubscriber → s.capture.ring.length < 8 → exec (.captureNow p) s = .next
      ((s.captureRecordedOnce (.command p)).commandDone p 0x0B .done 0))

/-- SUBSCRIBE and UNSUBSCRIBE. After an UNSUBSCRIBE the ring keeps the records some port has unread, and with no subscriber
left it is empty and the lost counter 0. -/
def Clause.SubscribeAndUnsubscribe : Prop :=
  ∀ (p : Port) (s : State), s.CanCommand p → s.RingSound →
    ((s.port p).cursor = none → exec (.subscribe p) s = .next
      ((s.modPort p fun c => { c with cursor := some ⟨s.capture.sequence, 0⟩ }).commandDone p 0x08 .done 1)) ∧
    ((s.port p).cursor ≠ none → exec (.subscribe p) s = .next (s.commandDone p 0x08 .done 0)) ∧
    ((s.port p).cursor = none → exec (.unsubscribe p) s = .next (s.commandDone p 0x09 .done 0)) ∧
    ((s.port p).cursor ≠ none → ∃ n m, exec (.unsubscribe p) s = .next
        (({ s.modPort p fun c => { c with cursor := none } with
            capture := { s.capture with ring := s.capture.ring.drop n, lost := m } } : State).commandDone p 0x09 .done
          1) ∧
      (∀ q, q ≠ p → (s.port q).unread ≤ s.capture.ring.length - n) ∧
      (n < s.capture.ring.length → ∃ q, q ≠ p ∧ (s.port q).unread = s.capture.ring.length - n) ∧
      ((∃ q, q ≠ p ∧ (s.port q).cursor ≠ none) → m = s.capture.lost) ∧
      ((∀ q, q ≠ p → (s.port q).cursor = none) → m = 0 ∧ s.capture.ring.length ≤ n))

/-- ADVANCE: EMPTY with no record at the cursor, REFUSED_STATE when not subscribed, otherwise one record on, and the records
that no port has unread any more are freed. -/
def Clause.AdvancePassesOneRecord : Prop :=
  ∀ (p : Port) (s : State), s.CanCommand p → s.RingSound →
    ((s.port p).cursor = none → exec (.advance p) s = .next (s.commandDone p 0x0A .refusedState 0)) ∧
    (∀ k, (s.port p).cursor = some k → k.unread = 0 → exec (.advance p) s = .next
      (s.commandDone p 0x0A .empty 0)) ∧
    (∀ k r, (s.port p).cursor = some k → 0 < k.unread →
      s.capture.ring[s.capture.ring.length - k.unread]? = some r →
      ∃ n, exec (.advance p) s = .next
          (({ s.modPort p fun c => { c with cursor := some ⟨r.sequence + 1, k.unread - 1⟩ } with
              capture := { s.capture with ring := s.capture.ring.drop n } } : State).commandDone p 0x0A .done
            (BitVec.ofNat 8 (k.unread - 1))) ∧
        (∀ q, q ≠ p → (s.port q).unread ≤ s.capture.ring.length - n) ∧ k.unread - 1 ≤ s.capture.ring.length - n ∧
        (n < s.capture.ring.length →
          k.unread - 1 = s.capture.ring.length - n ∨ ∃ q, q ≠ p ∧ (s.port q).unread = s.capture.ring.length - n))

/-- SUBSCRIBE, UNSUBSCRIBE and ADVANCE. -/
def Obligations.CursorCommands : Prop := Clause.SubscribeAndUnsubscribe ∧ Clause.AdvancePassesOneRecord

/-! ### PORT_CLEAR -/

/-- PORT_CLEAR: the issuing port's context at its starting values, its claims released, its requests removed, its detached
command's code kept in RES_DETAIL; nothing of another port changes. -/
def Clause.PortClearTakesContext : Prop :=
  ∀ (p : Port) (s : State), s.Settled → s.Stands p true 0x08 →
    ∃ t, exec (.portClear p) s = .next t ∧
      (t.port p).page = 0 ∧ (t.port p).pointer = 0 ∧ (t.port p).accessRefused = false ∧
      (t.port p).stageDiscarded = false ∧ (t.port p).cmdOverrun = false ∧ (t.port p).snapshot = none ∧
      (t.port p).stage = none ∧ (t.port p).events = 0 ∧ (t.port p).enables = 0 ∧ (t.port p).cursor = none ∧
      t.pins.attn.get p = .high ∧
      (t.command p).code = 0x0D ∧ (t.command p).inProgress = false ∧ (t.command p).arg0 = (s.command p).arg0 ∧
      (t.command p).arg1 = (s.command p).arg1 ∧ (t.command p).arg2 = (s.command p).arg2 ∧
      ((s.command p).inProgress = false → (t.command p).result = .done ∧ (t.command p).detail = 0) ∧
      ((s.command p).inProgress = true →
        (t.command p).result = .none ∧ (t.command p).detail = (s.command p).code) ∧
      (∀ w, ((s.window p w).state = .inFlight ∨ (s.window p w).state = .cancelling →
          t.window p w = { Window.reset with state := .cancelling, clearMark := true }) ∧
        ((s.window p w).state ≠ .inFlight → (s.window p w).state ≠ .cancelling → t.window p w = Window.reset)) ∧
      t.queue = s.queue.filter (fun r => r.port ≠ p) ∧ t.out = s.out ∧
      (∀ i, ((s.slot i).owner ≠ some p → t.slot i = s.slot i) ∧
        ((s.slot i).owner = some p → t.slot i =
          { s.slot i with
            owner := none
            output := if (s.slot i).config.releaseSafe then
              { (s.slot i).output with committed := (s.slot i).config.safeOutput } else (s.slot i).output })) ∧
      (∀ q, q ≠ p → t.port q = s.port q ∧ t.pins.attn.get q = s.pins.attn.get q) ∧
      t.sched = { s.sched with waiters := s.sched.waiters.set p false } ∧
      (∀ v, s.store.save = some v → v.issuer = p → t.store.save = some { v with tell := false }) ∧
      ((∀ v, s.store.save = some v → v.issuer ≠ p) → t.store = s.store) ∧
      t.transfer p = some (true, 0x09) ∧ t.config = s.config ∧ t.roles = s.roles ∧ t.engine = s.engine ∧
      t.handed = s.handed ∧ t.phase = s.phase ∧ t.ready = s.ready

/-- The capture unit at a PORT_CLEAR: the port's subscription ends, the ring keeps the records some other port has unread, and with
no subscriber left it is empty and the lost counter 0; nothing changes there for a port that was not subscribed. -/
def Clause.PortClearReclaims : Prop :=
  ∀ (p : Port) (s : State), s.Stands p true 0x08 →
    ∃ t, exec (.portClear p) s = .next t ∧ (t.port p).cursor = none ∧
      ((s.port p).cursor = none → t.capture = s.capture) ∧
      ((s.port p).cursor ≠ none → s.RingSound →
        ∃ n m, t.capture = { s.capture with ring := s.capture.ring.drop n, lost := m } ∧
          (∀ q, q ≠ p → (s.port q).unread ≤ s.capture.ring.length - n) ∧
          (n < s.capture.ring.length → ∃ q, q ≠ p ∧ (s.port q).unread = s.capture.ring.length - n) ∧
          ((∃ q, q ≠ p ∧ (s.port q).cursor ≠ none) → m = s.capture.lost) ∧
          ((∀ q, q ≠ p → (s.port q).cursor = none) → m = 0 ∧ s.capture.ring.length ≤ n))

/-- PORT_CLEAR in the port's context and at the capture unit. -/
def Obligations.PortClearResetsContext : Prop := Clause.PortClearTakesContext ∧ Clause.PortClearReclaims

/-! ### The link -/

/-- LINK_START by a SUPERVISE port: RUNNING and STOPPING change nothing; STOPPED enters RUNNING, the timer starts and a cycle
starts, here with a plan that is not empty and no TIMER capture. -/
def Clause.LinkStartInEachState : Prop :=
  ∀ (p : Port) (s : State), s.CanCommand p → s.role p = .supervise →
    (s.sched.link = .running → exec (.linkStart p) s = .next (s.commandDone p 0x0E .done 1)) ∧
    (s.sched.link = .stopping → exec (.linkStart p) s = .next (s.commandDone p 0x0E .refusedState 2)) ∧
    (∀ j rest, s.sched.link = .stopped → s.config.timerDivider = 0 →
      s.dueSlots (s.sched.cycle + 1) = j :: rest → s.engine = .ready ∨ (∃ r g, s.engine = .quiet r g) →
      exec (.linkStart p) s = .next
        (((((s.modPorts fun c => { c with events := c.events ||| 0x80 }).modSched fun c =>
            { c with link := .running, timer := some (125 * s.config.period.toNat) }).cycleStarted rest).handedOver
          (State.kindFor (s.slot j).health.state) j).commandDone p 0x0E .done 1))

/-- LINK_START in STOPPED, whatever the TIMER capture, the plan and the queue: RUNNING, and the cycle start with its first turn. -/
def Clause.LinkStartStartsCycle : Prop :=
  ∀ (p : Port) (s : State), s.CanCommand p → s.role p = .supervise → s.sched.link = .stopped →
    ∃ t, exec (.linkStart p) s = .next (t.commandDone p 0x0E .done 1) ∧ s.linkRunning.CycleStarts t

/-- LINK_START. -/
def Obligations.LinkStartByState : Prop := Clause.LinkStartInEachState ∧ Clause.LinkStartStartsCycle

/-- LINK_STOP by a SUPERVISE port. RUNNING with an exchange in flight: STOPPING, IN_PROGRESS, and the port waits. RUNNING with
none: STOPPED at once, here with nothing pending and an empty queue. -/
def Clause.LinkStopByState : Prop :=
  ∀ (p : Port) (s : State), s.CanCommand p → s.role p = .supervise →
    (s.sched.link = .stopped → exec (.linkStop p) s = .next (s.commandDone p 0x0F .done 0)) ∧
    (s.sched.link = .stopping → exec (.linkStop p) s = .next
      ((s.modSched fun c => { c with waiters := c.waiters.set p true }).commandDone p 0x0F .inProgress 0)) ∧
    (s.sched.link = .running → s.engine.exchange ≠ none → exec (.linkStop p) s = .next
      (((s.modSched fun c => { c with link := .stopping, waiters := c.waiters.set p true }).modPorts fun c =>
        { c with events := c.events ||| 0x80 }).commandDone p 0x0F .inProgress 0)) ∧
    (s.sched.link = .running → s.engine.exchange = none → s.handed = none → s.queue = [] →
      exec (.linkStop p) s = .next
        (({ ((s.modSlots fun x =>
              { x with
                health :=
                  if x.health.state = .disabled ∨ x.health.state = .lockedOut then x.health
                  else { x.health with
                    state := .probing, round := .first, quick := 0, rounds := 0, consecutive := 0, backoff := 0 }
                input :=
                  { x.input with
                    state := if x.input.state = .fresh ∨ x.input.state = .stale then .lost else x.input.state
                    updated := false } }).modPorts fun c =>
              { c with events := c.events ||| (if (∃ i : Fin 16, (s.slot i).health.state = .active ∨
                  (s.slot i).health.state = .suspect ∨ (s.slot i).health.state = .backoff) then 0x88 else 0x80) }).modSched
            fun c =>
              { c with
                link := .stopped, timer := none, inCycle := false, plan := [], acyclic := 0, deferred := false } with
            phase := false } : State).commandDone p 0x0F .done 0))

/-- At a LINK_STOP that enters STOPPED every queued record goes and its window fails with LINK_STOPPED, and a CYCLIC or IDENT
request pending at the engine is dropped. -/
def Clause.LinkStopEmptiesQueue : Prop :=
  ∀ (p : Port) (s : State), s.CanCommand p → s.role p = .supervise → s.sched.link = .running →
    s.engine.exchange = none → s.RequestsMatchWindows →
    (∀ h, s.handed = some h → h.kind = .cyclic ∨ h.kind = .ident) →
    ∃ t, exec (.linkStop p) s = .next t ∧ t.sched.link = .stopped ∧ t.sched.timer = none ∧ t.queue = [] ∧
      t.handed = none ∧ t.engine = s.engine ∧ t.sched.cycle = s.sched.cycle ∧
      t.sched.overruns = s.sched.overruns ∧ t.config = s.config ∧ t.store = s.store ∧ t.capture = s.capture ∧
      (∀ q, (t.port q).events &&& 0x80 = 0x80) ∧
      ∀ q w,
        ((∃ r ∈ s.queue, r.port = q ∧ r.window = w) →
          t.window q w = { s.window q w with state := .failed, cause := .linkStopped, detail := 0 } ∧
            (t.port q).events &&& 0x04 = 0x04) ∧
        ((∀ r ∈ s.queue, r.port = q → r.window ≠ w) → t.window q w = s.window q w)

/-- LINK_STOP in RUNNING with no exchange in flight, whatever is pending or queued: a pending request is withdrawn (a READ or WRITE
ends its window with LINK_STOPPED, or as its cancel or its port clear gives), the queue is emptied, and the link is STOPPED. -/
def Clause.LinkStopWithdraws : Prop :=
  ∀ (p : Port) (s : State), s.CanCommand p → s.role p = .supervise → s.sched.link = .running →
    s.engine.exchange = none →
    ∃ v, exec (.linkStop p) s = .next
        ((v.requestsRemoved (fun _ => true) .linkStopped).linkStopped.commandDone p 0x0F .done 0) ∧
      (s.handed = none → v = s) ∧ ∀ h, s.handed = some h → s.WithdrawnGives h.kind .linkStopped v

/-- LINK_STOP, and what it does to the requests. -/
def Obligations.LinkStopCommand : Prop :=
  Clause.LinkStopByState ∧ Clause.LinkStopEmptiesQueue ∧ Clause.LinkStopWithdraws

/-- In STOPPING the NO_REPLY of the exchange in flight brings the link to STOPPED, and every stop waiter whose LINK_STOP is in
progress gets DONE with RES_DETAIL 0 and CMD_DONE. -/
def Clause.TimeoutEndsStopping : Prop :=
  ∀ (x : Exchange) (s : State), s.engine = .waiting x false → s.sched.link = .stopping →
    ∃ t, exec (.responseTimeout .high) s = .next t ∧ t.sched.link = .stopped ∧ t.sched.timer = none ∧
      t.queue = [] ∧ t.handed = none ∧ t.engine = .quiet x.rate .quietEntry ∧
      (∀ i, (t.slot i).health.state = .disabled ∨ (t.slot i).health.state = .probing ∨
        (t.slot i).health.state = .lockedOut) ∧
      ∀ p, t.sched.waiters.get p = false ∧ (t.port p).events &&& 0x80 = 0x80 ∧
        (s.sched.waiters.get p = true → (s.command p).inProgress = true → (s.command p).code = 0x0F →
          t.command p = { s.command p with inProgress := false, result := .done, detail := 0 } ∧
            (t.port p).events &&& 0x40 = 0x40) ∧
        (s.sched.waiters.get p = false → t.command p = s.command p)

/-- In STOPPING every event that decides the exchange in flight, of any kind and with or without the discard mark: its report is
passed on as in RUNNING, then the link is STOPPED and the stop waiters are told. -/
def Clause.ReportEndsStopping : Prop :=
  ∀ (c : Instr) (x : Exchange) (d : Decision) (s : State), s.Decides c x d → s.sched.link = .stopping →
    ∃ v t, exec c s = .next t.settle ∧ s.PassedOn x d v ∧ v.StoppingGives t

/-- The report of the exchange in flight ends STOPPING. -/
def Obligations.StoppingEndsAtReport : Prop := Clause.TimeoutEndsStopping ∧ Clause.ReportEndsStopping

/-- CYCLE_TIMER_EXPIRY: in STOPPING it is not acted on (R23). In STOPPED the timer has no expiries (R26): that the event then
changes nothing is the model's choice (log entry 2). In RUNNING it is an overrun while a cycle is in progress, and a cycle start
otherwise, here with no TIMER capture and a plan that is not empty. -/
def Clause.CycleTimerExpiryByState : Prop :=
  ∀ s : State,
    (s.sched.link ≠ .running → exec .cycleTimerExpiry s = .next s.settle) ∧
    (s.sched.link = .running → s.sched.inCycle = true → exec .cycleTimerExpiry s = .next
      ((s.modSched fun c =>
        { c with
          overruns := if c.overruns = 0xFFFF then 0xFFFF else c.overruns + 1, deferred := true }).modPorts fun c =>
        { c with events := c.events ||| 0x20 }).settle) ∧
    (∀ j rest, s.sched.link = .running → s.sched.inCycle = false → s.config.timerDivider = 0 →
      s.dueSlots (s.sched.cycle + 1) = j :: rest → s.engine = .ready ∨ (∃ r g, s.engine = .quiet r g) →
      exec .cycleTimerExpiry s = .next
        ((s.cycleStarted rest).handedOver (State.kindFor (s.slot j).health.state) j).settle)

/-- A cycle whose plan and queue are empty at its start ends at once: the cycle-end work is done on every slot and the toggle
phase is turned over. -/
def Clause.EmptyCycleEndsAtOnce : Prop :=
  ∀ s : State, s.sched.link = .running → s.sched.inCycle = false → s.sched.deferred = false →
    s.config.timerDivider = 0 → s.dueSlots (s.sched.cycle + 1) = [] → s.queue = [] →
    exec .cycleTimerExpiry s = .next
      { (((s.cycleStarted []).modSlots (·.cycleEnd s.config.staleLimit)).modSched fun c =>
          { c with inCycle := false }).modPorts fun c =>
          { c with events := c.events ||| (if (∃ i : Fin 16, (s.slot i).health.state = HealthState.backoff ∧ (s.slot i).health.backoff ≤ 1)
              then 0x08 else 0) } with
        phase := !s.phase }.settle

/-- CYCLE_TIMER_EXPIRY in RUNNING with no cycle in progress starts a cycle, whatever the TIMER capture, the plan and the queue: its
first turn serves the plan, or the queue's head, or ends the cycle. -/
def Clause.ExpiryStartsCycle : Prop :=
  ∀ s : State, s.sched.link = .running → s.sched.inCycle = false →
    ∃ t, exec .cycleTimerExpiry s = .next t.settle ∧ s.CycleStarts t

/-- Every event that decides a CYCLIC or IDENT exchange in RUNNING, without the discard mark: its report is evidence of the slot's
health, a good CYCLIC reply reaches the process image, and the next turn of the cycle follows. That turn serves the plan, takes
the queue's head while the allowance leaves room, or ends the cycle, and a deferred start then begins the next. -/
def Clause.TurnFollowsReport : Prop :=
  ∀ (c : Instr) (x : Exchange) (d : Decision) (s : State), s.Decides c x d → x.kind = .cyclic ∨ x.kind = .ident →
    s.sched.link = .running → s.sched.discard = false →
    ∃ v t, exec c s = .next t.settle ∧ v.TurnGives t ∧
      (∀ f, d = .failed f → v = s.evidenceTaken x d) ∧ (x.kind = .ident → v = s.evidenceTaken x d) ∧
      ∀ y, d = .success y → x.kind = .cyclic → (s.evidenceTaken x d).ImageGives x.slot y v

/-- The acyclic part after an exchange: with the plan over and room in the allowance copy, the queue's head is taken. Its window is
IN_FLIGHT and its READ or WRITE is pending while the engine keeps the guard. Shown at a CYCLIC exchange of an ACTIVE slot that
fails without loss. -/
def Clause.QueueHeadTakenAfterReport : Prop :=
  ∀ (x : Exchange) (r : Request) (rest : List Request) (s u : State), s.engine = .waiting x false → x.kind = .cyclic →
    s.sched.link = .running → s.sched.discard = false → (s.slot x.slot).health.state = .active →
    2 ≤ s.config.suspectLimit.toNat → s.sched.plan = [] → s.queue = r :: rest →
    s.sched.acyclic < s.sched.allowance →
    (u = (s.modSlot x.slot fun y =>
        { y with health :=
          { y.health with
            state := .suspect
            consecutive := 1
            failureCount := if y.health.failureCount = 0xFFFF then 0xFFFF else y.health.failureCount + 1
            lastFailure := some .noReply } }).modPorts fun y => { y with events := y.events ||| 0x08 }) →
    exec (.responseTimeout .high) s = .next
      { (u.modWindow r.port r.window fun w => { w with state := .inFlight, cause := .none, detail := 0 }).modSched
          fun y => { y with acyclic := y.acyclic + 1 } with
        engine := .quiet x.rate .quietEntry
        queue := rest
        out := some r
        handed := some ⟨match r.kind with | .read => .read | .write _ => .write, r.slot⟩ }.settle

/-- CYCLE_TIMER_EXPIRY, the cycle start, and the turns after it to the cycle's end. The half of its first clause about STOPPED, where
no expiry can come, is the model's choice (log entry 2). -/
def Obligations.CycleTimerExpiry : Prop :=
  Clause.CycleTimerExpiryByState ∧ Clause.EmptyCycleEndsAtOnce ∧ Clause.ExpiryStartsCycle ∧ Clause.TurnFollowsReport ∧
    Clause.QueueHeadTakenAfterReport

/-- A TIMER request is made at a cycle start whose number is a multiple of a divider that is not 0. -/
def Clause.TimerCaptureAtMultiples : Prop :=
  ∀ s : State,
    (s.config.timerDivider = 0 ∨ s.sched.cycle.toNat % s.config.timerDivider.toNat ≠ 0 ∨ ¬s.HasSubscriber →
      s.timerCapture = s) ∧
    (s.config.timerDivider ≠ 0 → s.sched.cycle.toNat % s.config.timerDivider.toNat = 0 → s.HasSubscriber →
      (8 ≤ s.capture.ring.length → s.timerCapture = s.captureLostOnce) ∧
      (s.capture.ring.length < 8 → s.timerCapture = s.captureRecordedOnce .timer))

/-- A cycle start at an expiry of the cycle timer makes the TIMER capture that is due: before the plan is fixed and any exchange
begins, with the new cycle number. -/
def Clause.CycleStartTakesTimerCapture : Prop :=
  ∀ s u : State, s.sched.link = .running → s.sched.inCycle = false → s.config.timerDivider ≠ 0 →
    (s.sched.cycle + 1).toNat % s.config.timerDivider.toNat = 0 →
    (u = s.modSched fun c => { c with cycle := c.cycle + 1 }) →
    ∃ v t, exec .cycleTimerExpiry s = .next t.settle ∧ v.planFixed.TurnGives t ∧ (¬s.HasSubscriber → v = u) ∧
      (s.HasSubscriber → 8 ≤ s.capture.ring.length → v = u.captureLostOnce) ∧
      (s.HasSubscriber → s.capture.ring.length < 8 → v = u.captureRecordedOnce .timer)

/-- The last byte of a good CYCLIC reply with EVT, of an ACTIVE or SUSPECT slot in the event-source set, makes the STATION capture
after the record has been updated and before the next turn. -/
def Clause.ReplyTakesStationCapture : Prop :=
  ∀ (c : Instr) (x : Exchange) (y : Reply) (s u : State), s.Decides c x (.success y) → x.kind = .cyclic →
    s.sched.link = .running → s.sched.discard = false →
    (s.slot x.slot).health.state = .active ∨ (s.slot x.slot).health.state = .suspect → y.evt = true →
    s.config.eventSet.getLsbD x.slot.val = true →
    u = (s.evidenceTaken x (.success y)).recordUpdated x.slot y →
    ∃ v t, exec c s = .next t.settle ∧ v.TurnGives t ∧ (¬s.HasSubscriber → v = u) ∧
      (s.HasSubscriber → 8 ≤ s.capture.ring.length → v = u.captureLostOnce) ∧
      (s.HasSubscriber → s.capture.ring.length < 8 → v = u.captureRecordedOnce (.station x.slot))

/-- The four sources of a capture request and what becomes of it. -/
def Obligations.CaptureRequests : Prop :=
  Clause.CaptEdgeMakesPinRequest ∧ Clause.CaptureNowReportsFate ∧ Clause.TimerCaptureAtMultiples ∧
    Clause.StationCaptureFollowsUpdate ∧ Clause.CycleStartTakesTimerCapture ∧ Clause.ReplyTakesStationCapture

/-! ### The field link -/

/-- The check word: the register starts at 0xFFFF, each byte enters most significant bit first, and there is no final
inversion; the check value of the rule. -/
def Obligations.CheckWordIsCrc : Prop :=
  (∀ bytes : List Byte, crc bytes = bytes.foldl (fun (r : Half) (b : Byte) =>
    (List.range 8).foldl (fun (x : Half) _ => if x.msb then (x <<< 1) ^^^ 0x1021 else x <<< 1)
      (r ^^^ (b.setWidth 16 <<< 8))) 0xFFFF) ∧
  crc [0x31, 0x32, 0x33, 0x34, 0x35, 0x36, 0x37, 0x38, 0x39] = 0x29B1

/-- The request of an exchange at its begin: address byte, cycle byte, payload of the kind, check word high byte first; and the
expected reply length, the timeout copy and the bit rate. -/
def Obligations.RequestFrozenAtBegin : Prop :=
  ∀ (s : State) (k : Kind) (i : Fin 16), ∃ body payload : List Byte,
    (s.newExchange k i).request =
      body ++ [BitVec.extractLsb' 8 8 (crc body), BitVec.extractLsb' 0 8 (crc body)] ∧
    body = [(match k with | .cyclic => 0 | .ident => 0x40 | .read => 0x80 | .write => 0xC0) |||
        ((s.slot i).config.address &&& 0x3F), s.sched.cycle.extractLsb' 0 8] ++ payload ∧
    (k = .cyclic → payload =
      (if (s.slot i).config.errSafe = true ∧ (s.slot i).input.err = true then (s.slot i).config.safeOutput
        else (s.slot i).output.committed).toList.take (s.slot i).config.outputLength.toNat) ∧
    (k = .ident → payload = []) ∧
    (∀ r, s.out = some r → k = r.kind.kind → payload =
      [r.address.extractLsb' 8 8, r.address.extractLsb' 0 8] ++
        match r.kind with | .read => [] | .write d => d.toList) ∧
    (s.newExchange k i).expected =
      (match k with | .cyclic => 4 + (s.slot i).config.inputLength.toNat | .ident => 9 | .read => 9 | .write => 5) ∧
    (s.newExchange k i).timeout = s.config.timeout ∧ (s.newExchange k i).rate = s.config.bitRate ∧
    (s.newExchange k i).kind = k ∧ (s.newExchange k i).slot = i ∧ (s.newExchange k i).received = []

/-- GUARD_MET and GUARD_TIMEOUT end QUIET: the engine is READY, or begins its pending request and asserts LINK_DE. -/
def Clause.GuardEndsQuiet : Prop :=
  ∀ (c : Instr) (rate : BitVec 2) (since : GuardFrom) (s : State), c = .guardMet ∨ c = .guardTimeout →
    s.engine = .quiet rate since →
    (s.handed = none → exec c s = .next { s with engine := .ready }.settle ∧
      ({ s with engine := .ready } : State).settle.pins.linkDe = false) ∧
    ∀ h, s.handed = some h → ∃ t, exec c s = .next t ∧ t.pins.linkDe = true ∧
      t = { s with engine := .sending (s.newExchange h.kind h.slot), handed := none }.settle

/-- A low on the line in QUIET, by whichever event it comes, restarts the measurement of the guard. -/
def Clause.LowInQuietRestartsGuard : Prop :=
  ∀ (c : Instr) (rate : BitVec 2) (since : GuardFrom) (s : State),
    c = .guardRestart ∨ (∃ m, c = .replyStartBit m) ∨ (∃ v l, c = .replyByte v l) → s.engine = .quiet rate since →
    exec c s = .next { s with engine := .quiet rate .lastLow }.settle

/-- REQUEST_SENT: the engine leaves SENDING for WAITING, and LINK_DE is deasserted. -/
def Clause.RequestSentStartsWait : Prop :=
  ∀ (x : Exchange) (s : State), s.engine = .sending x →
    exec .requestSent s = .next { s with engine := .waiting x false }.settle ∧
      ({ s with engine := .waiting x false } : State).settle.pins.linkDe = false

/-- GUARD_MET, GUARD_TIMEOUT, GUARD_RESTART and REQUEST_SENT. -/
def Obligations.GuardAndSending : Prop :=
  Clause.GuardEndsQuiet ∧ Clause.LowInQuietRestartsGuard ∧ Clause.RequestSentStartsWait

/-- A start bit still low at its middle stops the response or idle timer and takes the engine into RECEIVING, also where the
timer had reached its limit with the line low. -/
def Clause.StartBitStopsTimer : Prop :=
  ∀ (x : Exchange) (s : State),
    (s.engine = .waiting x false → exec (.responseTimeout .low) s = .next { s with engine := .waiting x true }.settle) ∧
    (s.engine = .receiving x .running →
      exec (.idleTimeout .low) s = .next { s with engine := .receiving x .expiredLow }.settle) ∧
    ((∃ e, s.engine = .waiting x e) ∨ s.engine = .receiving x .running ∨ s.engine = .receiving x .expiredLow →
      exec (.replyStartBit .low) s = .next { s with engine := .receiving x .stopped }.settle) ∧
    (s.engine = .waiting x false ∨ s.engine = .receiving x .running →
      exec (.replyStartBit .high) s = .next s.settle)

/-- REPLY_BYTE before the last expected one, with a good stop bit and a right echo: the byte is kept, the idle timer runs. -/
def Clause.ReplyByteIsKept : Prop :=
  ∀ (x : Exchange) (v : Byte) (s : State), s.engine = .receiving x .stopped →
    x.received.length + 1 < x.expected → (x.received = [] → x.request.head? = some v) →
    exec (.replyByte v .high) s = .next
      { s with engine := .receiving { x with received := x.received ++ [v] } .running }.settle

/-- REPLY_START_BIT, and REPLY_BYTE before the last byte. -/
def Obligations.ReceptionGoesOn : Prop := Clause.StartBitStopsTimer ∧ Clause.ReplyByteIsKept

/-- Each way an exchange can fail, for a CYCLIC exchange of an ACTIVE slot in a running cycle whose next planned slot is ACTIVE
or SUSPECT: the outcome of the rule, the slot SUSPECT, the engine QUIET, the next request pending. -/
def Obligations.FailedExchangeMakesSuspect : Prop :=
  ∀ (c : Instr) (f : LinkFailure) (x : Exchange) (j : Fin 16) (rest : List (Fin 16)) (s : State),
    (c = .responseTimeout .high ∧ s.engine = .waiting x false ∧ f = .noReply) ∨
      (c = .replyStartBit .high ∧ s.engine = .waiting x true ∧ f = .noReply) ∨
      (c = .idleTimeout .high ∧ s.engine = .receiving x .running ∧ f = .badLength) ∨
      (c = .replyStartBit .high ∧ s.engine = .receiving x .expiredLow ∧ f = .badLength) ∨
      (∃ v, c = .replyByte v .low ∧ s.engine = .receiving x .stopped ∧ f = .badCheck) ∨
      (∃ v, c = .replyByte v .high ∧ s.engine = .receiving x .stopped ∧ x.received = [] ∧
        x.request.head? ≠ some v ∧ x.request ≠ [] ∧ f = .badEcho) ∨
      (∃ v, c = .replyByte v .high ∧ s.engine = .receiving x .stopped ∧ 4 ≤ x.expected ∧
        x.received.length + 1 = x.expected ∧
        crc ((x.received ++ [v]).take (x.expected - 2)) ≠
          (x.received ++ [v]).getD (x.expected - 2) 0 ++ (x.received ++ [v]).getD (x.expected - 1) 0 ∧
        f = .badCheck) →
    x.kind = .cyclic → s.sched.link = .running → s.sched.discard = false → s.sched.plan = j :: rest → j ≠ x.slot →
    (s.slot j).health.state = .active ∨ (s.slot j).health.state = .suspect →
    (s.slot x.slot).health.state = .active → 2 ≤ s.config.suspectLimit.toNat →
    exec c s = .next
      { ((s.modSlot x.slot fun y =>
            { y with health :=
              { y.health with
                state := .suspect
                consecutive := 1
                failureCount := if y.health.failureCount = 0xFFFF then 0xFFFF else y.health.failureCount + 1
                lastFailure := some f } }).modPorts fun y => { y with events := y.events ||| 0x08 }).modSched fun y =>
          { y with plan := rest } with
        engine := .quiet x.rate .quietEntry
        handed := some ⟨.cyclic, j⟩ }.settle

/-- The last expected byte of a CYCLIC reply with a matching check word, in the same surroundings: SUCCESS, the good count, and
the input record with the reply's bytes. Here no STATION capture follows. -/
def Obligations.GoodCyclicReplyIsApplied : Prop :=
  ∀ (v : Byte) (x : Exchange) (j : Fin 16) (rest : List (Fin 16)) (s : State),
    s.engine = .receiving x .stopped → 4 ≤ x.expected → x.received.length + 1 = x.expected →
    crc ((x.received ++ [v]).take (x.expected - 2)) =
      (x.received ++ [v]).getD (x.expected - 2) 0 ++ (x.received ++ [v]).getD (x.expected - 1) 0 →
    x.kind = .cyclic → s.sched.link = .running → s.sched.discard = false → s.sched.plan = j :: rest → j ≠ x.slot →
    (s.slot j).health.state = .active ∨ (s.slot j).health.state = .suspect →
    (s.slot x.slot).health.state = .active → s.config.eventSet.getLsbD x.slot.val = false →
    exec (.replyByte v .high) s = .next
      { (s.modSlot x.slot fun y =>
            { y with
              health := { y.health with goodCount := y.health.goodCount + 1 }
              input :=
                { state := .fresh
                  err := if y.config.errLatch then (x.received.getD 1 0).getLsbD 0 || y.input.err
                    else (x.received.getD 1 0).getLsbD 0
                  warn := (x.received.getD 1 0).getLsbD 1
                  evt := (x.received.getD 1 0).getLsbD 2
                  generation := y.input.generation + 1
                  age := 0
                  data := Vector.ofFn fun k : Fin 16 =>
                    if k.val < y.config.inputLength.toNat then
                      (((x.received ++ [v]).take (x.expected - 2)).drop 2).getD k.val 0 else 0
                  updated := true } }).modSched fun y => { y with plan := rest } with
        engine := .quiet x.rate .quietEntry
        handed := some ⟨.cyclic, j⟩ }.settle

/-- The NO_REPLY of an exchange under the discard mark reaches no slot, and the mark is cleared. -/
def Clause.DiscardMarkHidesTimeout : Prop :=
  ∀ (x : Exchange) (j : Fin 16) (rest : List (Fin 16)) (s : State), s.engine = .waiting x false →
    x.kind = .cyclic ∨ x.kind = .ident → s.sched.link = .running → s.sched.discard = true → s.sched.plan = j :: rest →
    (s.slot j).health.state = .active ∨ (s.slot j).health.state = .suspect →
    exec (.responseTimeout .high) s = .next
      { s.modSched fun y => { y with plan := rest, discard := false } with
        engine := .quiet x.rate .quietEntry
        handed := some ⟨.cyclic, j⟩ }.settle

/-- Every event that decides an exchange under the discard mark in RUNNING, a good reply too: no slot and no input record changes, a
READ or WRITE ends its window with SLOT_LEFT (or as its cancel or its port clear gives), the mark is cleared, and the next turn
follows. -/
def Clause.DiscardMarkHidesEveryReport : Prop :=
  ∀ (c : Instr) (x : Exchange) (d : Decision) (s u : State), s.Decides c x d → s.sched.link = .running →
    s.sched.discard = true →
    u = { s.modSched fun y => { y with discard := false } with engine := .quiet x.rate .quietEntry } →
    ∃ v t, exec c s = .next t.settle ∧ v.TurnGives t ∧ (x.kind = .cyclic ∨ x.kind = .ident → v = u) ∧
      (x.kind = .read ∨ x.kind = .write → u.OutEnds .slotLeft v)

/-- The report of an exchange under the discard mark. -/
def Obligations.DiscardMarkHidesReport : Prop := Clause.DiscardMarkHidesTimeout ∧ Clause.DiscardMarkHidesEveryReport

/-! ### The settings and the store -/

/-- The eight rows that write a global setting, from a SUPERVISE port with a value in range, and for the bit rate and the period
with the link STOPPED: the setting takes the value at once. -/
def Clause.SettingWriteTaken : Prop :=
  ∀ (p : Port) (v a : Byte) (g : Global) (s : State), s.Stands p true a → s.target p a = .image (.setting g) →
    s.role p = .supervise →
    (g = .bitRate → s.sched.link = .stopped → exec (.bitRateWrite p v) s = .next
      ({ s with config :=
        { s.config with bitRate := v.extractLsb' 0 2, autoStart := v.getLsbD 7 } }.accessDone p true a 0)) ∧
    (g = .period → s.sched.link = .stopped → 1 ≤ v.toNat → v.toNat ≤ 128 → exec (.periodWrite p v) s = .next
      ({ s with config := { s.config with period := v } }.accessDone p true a 0)) ∧
    (g = .timeout → 1 ≤ v.toNat → v.toNat ≤ 63 → exec (.responseTimeoutWrite p v) s = .next
      ({ s with config := { s.config with timeout := v } }.accessDone p true a 0)) ∧
    (g = .allowance → 1 ≤ v.toNat → v.toNat ≤ 4 → exec (.acyclicAllowanceWrite p v) s = .next
      ({ s with config := { s.config with allowance := v } }.accessDone p true a 0)) ∧
    (g = .staleLimit → v ≠ 0 → exec (.healthParameterWrite p v) s = .next
      ({ s with config := { s.config with staleLimit := v } }.accessDone p true a 0)) ∧
    (g = .suspectLimit → 1 ≤ v.toNat → v.toNat ≤ 7 → exec (.healthParameterWrite p v) s = .next
      ({ s with config := { s.config with suspectLimit := v } }.accessDone p true a 0)) ∧
    (g = .firstQuick → 1 ≤ v.toNat → v.toNat ≤ 15 → exec (.healthParameterWrite p v) s = .next
      ({ s with config := { s.config with firstQuick := v } }.accessDone p true a 0)) ∧
    (g = .rejoinQuick → 1 ≤ v.toNat → v.toNat ≤ 15 → exec (.healthParameterWrite p v) s = .next
      ({ s with config := { s.config with rejoinQuick := v } }.accessDone p true a 0)) ∧
    (g = .backoff → v ≠ 0 → exec (.healthParameterWrite p v) s = .next
      ({ s with config := { s.config with backoffCode := v } }.accessDone p true a 0)) ∧
    (g = .lockout → v.toNat ≤ 7 → exec (.healthParameterWrite p v) s = .next
      ({ s with config := { s.config with lockoutRounds := v } }.accessDone p true a 0)) ∧
    (∀ x y z : Role, g = .roles → v.extractLsb' 0 2 = x.code → v.extractLsb' 2 2 = y.code → v.extractLsb' 4 2 = z.code →
      exec (.rolesByteWrite p v) s = .next
        ({ s with config := { s.config with roles := ⟨x, y, z⟩ } }.accessDone p true a 0)) ∧
    (g = .linkstat → exec (.linkstatOptionsWrite p v) s = .next
      ({ s with config :=
        { s.config with
          linkstatHealth := v.getLsbD 0
          linkstatInvert := v.getLsbD 1
          linkstatFault := v.getLsbD 2 } }.accessDone p true a 0)) ∧
    (∀ e : PinEdge, g = .pinEdge → v = e.code → exec (.captureSettingWrite p v) s = .next
      ({ s with config := { s.config with pinEdge := e } }.accessDone p true a 0)) ∧
    (g = .timerDivider → exec (.captureSettingWrite p v) s = .next
      ({ s with config := { s.config with timerDivider := v } }.accessDone p true a 0)) ∧
    (g = .captureLow → exec (.captureSettingWrite p v) s = .next
      ({ s with config :=
        { s.config with captureSet := s.config.captureSet.extractLsb' 8 8 ++ v } }.accessDone p true a 0)) ∧
    (g = .captureHigh → exec (.captureSettingWrite p v) s = .next
      ({ s with config :=
        { s.config with captureSet := v ++ s.config.captureSet.extractLsb' 0 8 } }.accessDone p true a 0)) ∧
    (g = .eventLow → exec (.captureSettingWrite p v) s = .next
      ({ s with config :=
        { s.config with eventSet := s.config.eventSet.extractLsb' 8 8 ++ v } }.accessDone p true a 0)) ∧
    (g = .eventHigh → exec (.captureSettingWrite p v) s = .next
      ({ s with config :=
        { s.config with eventSet := v ++ s.config.eventSet.extractLsb' 0 8 } }.accessDone p true a 0))

/-- The same rows from another role, with a value out of range, or for the bit rate and the period with the link not STOPPED: the
setting keeps its value and ACCESS_REFUSED is set. -/
def Clause.SettingWriteRefused : Prop :=
  ∀ (c : Instr) (p : Port) (v a : Byte) (g : Global) (s : State), s.Stands p true a →
    s.target p a = .image (.setting g) →
    (c = .bitRateWrite p v ∧ g = .bitRate) ∨ (c = .periodWrite p v ∧ g = .period) ∨
      (c = .responseTimeoutWrite p v ∧ g = .timeout) ∨ (c = .acyclicAllowanceWrite p v ∧ g = .allowance) ∨
      (c = .healthParameterWrite p v ∧ (g = .staleLimit ∨ g = .suspectLimit ∨ g = .firstQuick ∨ g = .rejoinQuick ∨
        g = .backoff ∨ g = .lockout)) ∨
      (c = .captureSettingWrite p v ∧ (g = .pinEdge ∨ g = .timerDivider ∨ g = .captureLow ∨ g = .captureHigh ∨
        g = .eventLow ∨ g = .eventHigh)) ∨
      (c = .linkstatOptionsWrite p v ∧ g = .linkstat) ∨ (c = .rolesByteWrite p v ∧ g = .roles) →
    s.role p ≠ .supervise ∨ ((g = .bitRate ∨ g = .period) ∧ s.sched.link ≠ .stopped) ∨
      (g = .period ∧ (v = 0 ∨ 129 ≤ v.toNat)) ∨ (g = .timeout ∧ (v = 0 ∨ 64 ≤ v.toNat)) ∨
      (g = .allowance ∧ (v = 0 ∨ 5 ≤ v.toNat)) ∨ (g = .staleLimit ∧ v = 0) ∨
      (g = .suspectLimit ∧ (v = 0 ∨ 8 ≤ v.toNat)) ∨
      ((g = .firstQuick ∨ g = .rejoinQuick) ∧ (v = 0 ∨ 16 ≤ v.toNat)) ∨ (g = .backoff ∧ v = 0) ∨
      (g = .lockout ∧ 8 ≤ v.toNat) ∨ (g = .pinEdge ∧ 4 ≤ v.toNat) ∨
      (g = .roles ∧ (v.extractLsb' 0 2 = 3 ∨ v.extractLsb' 2 2 = 3 ∨ v.extractLsb' 4 2 = 3)) →
    exec c s = .next ((s.modPort p fun y => { y with accessRefused := true }).accessDone p true a 0)

/-- The eight rows that write a global setting. -/
def Obligations.SettingWrites : Prop := Clause.SettingWriteTaken ∧ Clause.SettingWriteRefused

/-- SAVE_CONFIG by a SUPERVISE port: BUSY while a save is in progress; otherwise the image of the configuration as it stands, the
port as issuer, SAVING and IN_PROGRESS. -/
def Obligations.SaveConfigStartsSave : Prop :=
  ∀ (p : Port) (s : State), s.CanCommand p → s.role p = .supervise →
    (s.store.save ≠ none → exec (.saveConfig p) s = .next (s.commandDone p 0x10 .busy 0)) ∧
    (s.store.save = none → exec (.saveConfig p) s = .next
      ({ s with store :=
        { s.store with
          state := .saving
          lastSave := .inProgress
          save := some ⟨s.saveImage, .erase, p, true⟩ } }.commandDone p 0x10 .inProgress 0))

/-- The three phases of a save: the erase of cells 0x000 and 0x001, the body, the validation word; each cell of the store as it
reads after the phase. -/
def Clause.SavePhasesWriteCells : Prop :=
  ∀ (v : Save) (s : State), s.StoreSound → s.store.save = some v →
    (v.phase = .erase → ∃ m, Memory.wf m = true ∧
      (∀ a, Memory.read m a = if a < 2 then 0xFF else Memory.read s.store.cells a) ∧
      exec .saveEraseDone s = .next
        { s with store := { s.store with cells := m, save := some { v with phase := .body } } }.settle) ∧
    (v.phase = .body → ∃ m, Memory.wf m = true ∧
      (∀ a, Memory.read m a = if 2 ≤ a ∧ a < 1024 then v.image.getD a 0 else Memory.read s.store.cells a) ∧
      exec (.saveBodyDone []) s = .next
        { s with store := { s.store with cells := m, save := some { v with phase := .validation } } }.settle) ∧
    (v.phase = .validation → ∀ cell1 cell0, ∃ t, exec (.saveComplete cell1 cell0) s = .next t ∧
      Memory.wf t.store.cells = true ∧
      ∀ a, Memory.read t.store.cells a =
        if a = 0 then cell0 else if a = 1 then cell1 else Memory.read s.store.cells a)

/-- The end of the body phase, whatever reads back otherwise: `held` is what each cell then holds, the byte of the first pair that
names it or else the image's (log entry 9). Cells 0x000 and 0x001 stay erased. With every cell as the image the validation phase
follows; with any other the save has failed and the cells stay as they are held. -/
def Clause.BodyReadsBack : Prop :=
  ∀ (v : Save) (misread : List Host.Cell) (held : Nat → Byte) (s : State), s.StoreSound → s.store.save = some v →
    v.phase = .body → (∀ a, held a = (misread.lookup a).getD (v.image.getD a 0)) →
    ∃ m t, exec (.saveBodyDone misread) s = .next t ∧ Memory.wf m = true ∧
      (∀ a, Memory.read m a = if 2 ≤ a ∧ a < 1024 then held a else 0xFF) ∧
      ((∀ a, 2 ≤ a → a < 1024 → held a = v.image.getD a 0) →
        t = { s with store := { s.store with cells := m, save := some { v with phase := .validation } } }.settle) ∧
      ((∃ a, 2 ≤ a ∧ a < 1024 ∧ held a ≠ v.image.getD a 0) →
        t.store = { s.store with cells := m, state := .defaulted, lastSave := .failedVerify, save := none })

/-- The completion of a save: DONE with 0, FAILED_VERIFY with 1 for one or more bytes of the body, with 2 for a byte of the
validation word; the store state and the last save result; the issuer told with CMD_DONE, unless its port was cleared. A port
that is not told keeps its command slot and every sticky event flag. -/
def Clause.SaveCompletes : Prop :=
  ∀ (v : Save) (s : State), s.store.save = some v →
    ∀ (c : Instr) (state : StoreState) (last : SaveResult) (r : Result) (detail : Byte),
      (v.phase = .validation ∧ c = .saveComplete 0x6D 0x2E ∧ state = .valid ∧ last = .done ∧ r = .done ∧ detail = 0) ∨
        ((∃ x y, v.phase = .validation ∧ c = .saveComplete x y ∧ ¬(x = 0x6D ∧ y = 0x2E)) ∧ state = .defaulted ∧
          last = .failedVerify ∧ r = .failedVerify ∧ detail = 2) ∨
        ((∃ misread a b, v.phase = .body ∧ c = .saveBodyDone misread ∧ 2 ≤ a ∧ a < v.image.length ∧
            misread.lookup a = some b ∧ v.image.getD a 0 ≠ b) ∧ state = .defaulted ∧ last = .failedVerify ∧
          r = .failedVerify ∧ detail = 1) →
      ∃ t, exec c s = .next t ∧ t.store.state = state ∧ t.store.lastSave = last ∧ t.store.save = none ∧
        t.store.resetCause = s.store.resetCause ∧ t.config = s.config ∧ t.slots = s.slots ∧ t.sched = s.sched ∧
        t.engine = s.engine ∧ t.queue = s.queue ∧ t.capture = s.capture ∧
        (v.tell = true → (s.command v.issuer).inProgress = true → (s.command v.issuer).code = 0x10 →
          t.command v.issuer = { s.command v.issuer with inProgress := false, result := r, detail := detail } ∧
            (t.port v.issuer).events &&& 0xFE = ((s.port v.issuer).events ||| 0x40) &&& 0xFE) ∧
        ∀ p, p ≠ v.issuer ∨ v.tell = false ∨ (s.command p).inProgress = false ∨ (s.command p).code ≠ 0x10 →
          t.command p = s.command p ∧ (t.port p).events &&& 0xFE = (s.port p).events &&& 0xFE

/-- SAVE_ERASE_DONE, SAVE_BODY_DONE and SAVE_COMPLETE. -/
def Obligations.SaveRunsToCompletion : Prop :=
  Clause.SavePhasesWriteCells ∧ Clause.BodyReadsBack ∧ Clause.SaveCompletes

/-! ### Invariants -/

/-- Every step keeps the store's cells in their canonical form, and keeps them without the validation word while a save is past
its first phase. -/
def Obligations.StepKeepsStoreSound : Prop := ∀ s t : State, s.StoreSound → step s = .next t → t.StoreSound

/-- Every step keeps the live configuration in the ranges of R167. -/
def Obligations.StepKeepsConfigInRange : Prop := ∀ s t : State, s.ConfigInRange → step s = .next t → t.ConfigInRange

/-- Every step keeps the request queue at eight records or fewer, each for an ACTIVE or SUSPECT slot. -/
def Obligations.StepKeepsQueueSound : Prop :=
  ∀ s t : State, s.QueueBounded ∧ s.QueueLinked → step s = .next t → t.QueueBounded ∧ t.QueueLinked

/-- Every step keeps each window with at most one request queued or out at the engine. -/
def Clause.StepKeepsOneRequestPerWindow : Prop :=
  ∀ s t : State, s.RequestsMatchWindows → step s = .next t → t.RequestsMatchWindows

/-- Every step keeps the windows, the queue, the record out and the engine in agreement, both ways: a busy window has its request
where its state says, and a READ or WRITE pending at the engine or in flight has its record out. -/
def Clause.StepKeepsRequestsSound : Prop := ∀ s t : State, s.RequestsSound → step s = .next t → t.RequestsSound

/-- Every step keeps the requests where the windows' states say, and the busy windows with their requests. -/
def Obligations.StepKeepsRequestsMatchWindows : Prop :=
  Clause.StepKeepsOneRequestPerWindow ∧ Clause.StepKeepsRequestsSound

/-- Every step keeps the capture ring at eight records or fewer, each unread by a subscribed port. -/
def Obligations.StepKeepsRingSound : Prop := ∀ s t : State, s.RingSound → step s = .next t → t.RingSound

/-- Every step keeps the owners CONTROL or SUPERVISE ports. -/
def Clause.StepKeepsOwnersDrive : Prop := ∀ s t : State, s.OwnersDrive → step s = .next t → t.OwnersDrive

/-- Every step keeps the station addresses of the slots that are not DISABLED distinct. -/
def Clause.StepKeepsAddressesUnique : Prop :=
  ∀ s t : State, s.AddressesUnique → step s = .next t → t.AddressesUnique

/-- Every step keeps the owners' roles and the distinct station addresses. -/
def Obligations.StepKeepsOwnersAndAddresses : Prop :=
  Clause.StepKeepsOwnersDrive ∧ Clause.StepKeepsAddressesUnique

/-- Every step keeps input records FRESH or STALE only while their slot is ACTIVE or SUSPECT. -/
def Obligations.StepKeepsRecordsFollowHealth : Prop :=
  ∀ s t : State, s.RecordsFollowHealth → step s = .next t → t.RecordsFollowHealth

/-- The state after reset has every invariant. -/
def Obligations.ResetHasInvariants : Prop :=
  State.reset.StoreSound ∧ State.reset.ConfigInRange ∧ State.reset.QueueBounded ∧ State.reset.QueueLinked ∧
    State.reset.RequestsMatchWindows ∧ State.reset.RequestsSound ∧ State.reset.RingSound ∧ State.reset.OwnersDrive ∧
    State.reset.AddressesUnique ∧ State.reset.RecordsFollowHealth ∧ State.reset.Settled
end

