-- ==== Sys2Proof/Laws/State.lean ====
section
/-! SUPPORT. What each update leaves as it is, field by field and accessor by accessor, so that no proof unfolds an
update to read another field. -/

namespace Sys2Proof.Machine.State

@[simp] theorem modPort_ready (s : State) (p : Port) (f : PortContext → PortContext) : (s.modPort p f).ready = s.ready := rfl
@[simp] theorem modPort_config (s : State) (p : Port) (f : PortContext → PortContext) : (s.modPort p f).config = s.config := rfl
@[simp] theorem modPort_roles (s : State) (p : Port) (f : PortContext → PortContext) : (s.modPort p f).roles = s.roles := rfl
@[simp] theorem modPort_slots (s : State) (p : Port) (f : PortContext → PortContext) : (s.modPort p f).slots = s.slots := rfl
@[simp] theorem modPort_spiA (s : State) (p : Port) (f : PortContext → PortContext) : (s.modPort p f).spiA = s.spiA := rfl
@[simp] theorem modPort_spiB (s : State) (p : Port) (f : PortContext → PortContext) : (s.modPort p f).spiB = s.spiB := rfl
@[simp] theorem modPort_i2c (s : State) (p : Port) (f : PortContext → PortContext) : (s.modPort p f).i2c = s.i2c := rfl
@[simp] theorem modPort_engine (s : State) (p : Port) (f : PortContext → PortContext) : (s.modPort p f).engine = s.engine := rfl
@[simp] theorem modPort_handed (s : State) (p : Port) (f : PortContext → PortContext) : (s.modPort p f).handed = s.handed := rfl
@[simp] theorem modPort_sched (s : State) (p : Port) (f : PortContext → PortContext) : (s.modPort p f).sched = s.sched := rfl
@[simp] theorem modPort_queue (s : State) (p : Port) (f : PortContext → PortContext) : (s.modPort p f).queue = s.queue := rfl
@[simp] theorem modPort_out (s : State) (p : Port) (f : PortContext → PortContext) : (s.modPort p f).out = s.out := rfl
@[simp] theorem modPort_capture (s : State) (p : Port) (f : PortContext → PortContext) : (s.modPort p f).capture = s.capture := rfl
@[simp] theorem modPort_store (s : State) (p : Port) (f : PortContext → PortContext) : (s.modPort p f).store = s.store := rfl
@[simp] theorem modPort_phase (s : State) (p : Port) (f : PortContext → PortContext) : (s.modPort p f).phase = s.phase := rfl
@[simp] theorem modPort_pins (s : State) (p : Port) (f : PortContext → PortContext) : (s.modPort p f).pins = s.pins := rfl
@[simp] theorem modPort_pending (s : State) (p : Port) (f : PortContext → PortContext) : (s.modPort p f).pending = s.pending := rfl
@[simp] theorem modPort_slot (s : State) (p : Port) (f : PortContext → PortContext) (j : Fin 16) :
    (s.modPort p f).slot j = s.slot j := rfl
@[simp] theorem modPort_role (s : State) (p : Port) (f : PortContext → PortContext) (q : Port) :
    (s.modPort p f).role q = s.role q := rfl
@[simp] theorem modPort_transfer (s : State) (p : Port) (f : PortContext → PortContext) (q : Port) :
    (s.modPort p f).transfer q = s.transfer q := rfl

@[simp] theorem modPorts_ready (s : State) (f : PortContext → PortContext) : (s.modPorts f).ready = s.ready := rfl
@[simp] theorem modPorts_config (s : State) (f : PortContext → PortContext) : (s.modPorts f).config = s.config := rfl
@[simp] theorem modPorts_roles (s : State) (f : PortContext → PortContext) : (s.modPorts f).roles = s.roles := rfl
@[simp] theorem modPorts_slots (s : State) (f : PortContext → PortContext) : (s.modPorts f).slots = s.slots := rfl
@[simp] theorem modPorts_spiA (s : State) (f : PortContext → PortContext) : (s.modPorts f).spiA = s.spiA := rfl
@[simp] theorem modPorts_spiB (s : State) (f : PortContext → PortContext) : (s.modPorts f).spiB = s.spiB := rfl
@[simp] theorem modPorts_i2c (s : State) (f : PortContext → PortContext) : (s.modPorts f).i2c = s.i2c := rfl
@[simp] theorem modPorts_engine (s : State) (f : PortContext → PortContext) : (s.modPorts f).engine = s.engine := rfl
@[simp] theorem modPorts_handed (s : State) (f : PortContext → PortContext) : (s.modPorts f).handed = s.handed := rfl
@[simp] theorem modPorts_sched (s : State) (f : PortContext → PortContext) : (s.modPorts f).sched = s.sched := rfl
@[simp] theorem modPorts_queue (s : State) (f : PortContext → PortContext) : (s.modPorts f).queue = s.queue := rfl
@[simp] theorem modPorts_out (s : State) (f : PortContext → PortContext) : (s.modPorts f).out = s.out := rfl
@[simp] theorem modPorts_capture (s : State) (f : PortContext → PortContext) : (s.modPorts f).capture = s.capture := rfl
@[simp] theorem modPorts_store (s : State) (f : PortContext → PortContext) : (s.modPorts f).store = s.store := rfl
@[simp] theorem modPorts_phase (s : State) (f : PortContext → PortContext) : (s.modPorts f).phase = s.phase := rfl
@[simp] theorem modPorts_pins (s : State) (f : PortContext → PortContext) : (s.modPorts f).pins = s.pins := rfl
@[simp] theorem modPorts_pending (s : State) (f : PortContext → PortContext) : (s.modPorts f).pending = s.pending := rfl
@[simp] theorem modPorts_slot (s : State) (f : PortContext → PortContext) (j : Fin 16) :
    (s.modPorts f).slot j = s.slot j := rfl
@[simp] theorem modPorts_role (s : State) (f : PortContext → PortContext) (q : Port) :
    (s.modPorts f).role q = s.role q := rfl
@[simp] theorem modPorts_transfer (s : State) (f : PortContext → PortContext) (q : Port) :
    (s.modPorts f).transfer q = s.transfer q := rfl

@[simp] theorem modSlot_ready (s : State) (i : Fin 16) (f : Slot → Slot) : (s.modSlot i f).ready = s.ready := rfl
@[simp] theorem modSlot_config (s : State) (i : Fin 16) (f : Slot → Slot) : (s.modSlot i f).config = s.config := rfl
@[simp] theorem modSlot_roles (s : State) (i : Fin 16) (f : Slot → Slot) : (s.modSlot i f).roles = s.roles := rfl
@[simp] theorem modSlot_ports (s : State) (i : Fin 16) (f : Slot → Slot) : (s.modSlot i f).ports = s.ports := rfl
@[simp] theorem modSlot_spiA (s : State) (i : Fin 16) (f : Slot → Slot) : (s.modSlot i f).spiA = s.spiA := rfl
@[simp] theorem modSlot_spiB (s : State) (i : Fin 16) (f : Slot → Slot) : (s.modSlot i f).spiB = s.spiB := rfl
@[simp] theorem modSlot_i2c (s : State) (i : Fin 16) (f : Slot → Slot) : (s.modSlot i f).i2c = s.i2c := rfl
@[simp] theorem modSlot_engine (s : State) (i : Fin 16) (f : Slot → Slot) : (s.modSlot i f).engine = s.engine := rfl
@[simp] theorem modSlot_handed (s : State) (i : Fin 16) (f : Slot → Slot) : (s.modSlot i f).handed = s.handed := rfl
@[simp] theorem modSlot_sched (s : State) (i : Fin 16) (f : Slot → Slot) : (s.modSlot i f).sched = s.sched := rfl
@[simp] theorem modSlot_queue (s : State) (i : Fin 16) (f : Slot → Slot) : (s.modSlot i f).queue = s.queue := rfl
@[simp] theorem modSlot_out (s : State) (i : Fin 16) (f : Slot → Slot) : (s.modSlot i f).out = s.out := rfl
@[simp] theorem modSlot_capture (s : State) (i : Fin 16) (f : Slot → Slot) : (s.modSlot i f).capture = s.capture := rfl
@[simp] theorem modSlot_store (s : State) (i : Fin 16) (f : Slot → Slot) : (s.modSlot i f).store = s.store := rfl
@[simp] theorem modSlot_phase (s : State) (i : Fin 16) (f : Slot → Slot) : (s.modSlot i f).phase = s.phase := rfl
@[simp] theorem modSlot_pins (s : State) (i : Fin 16) (f : Slot → Slot) : (s.modSlot i f).pins = s.pins := rfl
@[simp] theorem modSlot_pending (s : State) (i : Fin 16) (f : Slot → Slot) : (s.modSlot i f).pending = s.pending := rfl
@[simp] theorem modSlot_port (s : State) (i : Fin 16) (f : Slot → Slot) (q : Port) :
    (s.modSlot i f).port q = s.port q := rfl
@[simp] theorem modSlot_role (s : State) (i : Fin 16) (f : Slot → Slot) (q : Port) :
    (s.modSlot i f).role q = s.role q := rfl
@[simp] theorem modSlot_window (s : State) (i : Fin 16) (f : Slot → Slot) (q : Port) (k : Fin 4) :
    (s.modSlot i f).window q k = s.window q k := rfl
@[simp] theorem modSlot_command (s : State) (i : Fin 16) (f : Slot → Slot) (q : Port) :
    (s.modSlot i f).command q = s.command q := rfl
@[simp] theorem modSlot_transfer (s : State) (i : Fin 16) (f : Slot → Slot) (q : Port) :
    (s.modSlot i f).transfer q = s.transfer q := rfl

@[simp] theorem modSlots_ready (s : State) (f : Slot → Slot) : (s.modSlots f).ready = s.ready := rfl
@[simp] theorem modSlots_config (s : State) (f : Slot → Slot) : (s.modSlots f).config = s.config := rfl
@[simp] theorem modSlots_roles (s : State) (f : Slot → Slot) : (s.modSlots f).roles = s.roles := rfl
@[simp] theorem modSlots_ports (s : State) (f : Slot → Slot) : (s.modSlots f).ports = s.ports := rfl
@[simp] theorem modSlots_spiA (s : State) (f : Slot → Slot) : (s.modSlots f).spiA = s.spiA := rfl
@[simp] theorem modSlots_spiB (s : State) (f : Slot → Slot) : (s.modSlots f).spiB = s.spiB := rfl
@[simp] theorem modSlots_i2c (s : State) (f : Slot → Slot) : (s.modSlots f).i2c = s.i2c := rfl
@[simp] theorem modSlots_engine (s : State) (f : Slot → Slot) : (s.modSlots f).engine = s.engine := rfl
@[simp] theorem modSlots_handed (s : State) (f : Slot → Slot) : (s.modSlots f).handed = s.handed := rfl
@[simp] theorem modSlots_sched (s : State) (f : Slot → Slot) : (s.modSlots f).sched = s.sched := rfl
@[simp] theorem modSlots_queue (s : State) (f : Slot → Slot) : (s.modSlots f).queue = s.queue := rfl
@[simp] theorem modSlots_out (s : State) (f : Slot → Slot) : (s.modSlots f).out = s.out := rfl
@[simp] theorem modSlots_capture (s : State) (f : Slot → Slot) : (s.modSlots f).capture = s.capture := rfl
@[simp] theorem modSlots_store (s : State) (f : Slot → Slot) : (s.modSlots f).store = s.store := rfl
@[simp] theorem modSlots_phase (s : State) (f : Slot → Slot) : (s.modSlots f).phase = s.phase := rfl
@[simp] theorem modSlots_pins (s : State) (f : Slot → Slot) : (s.modSlots f).pins = s.pins := rfl
@[simp] theorem modSlots_pending (s : State) (f : Slot → Slot) : (s.modSlots f).pending = s.pending := rfl
@[simp] theorem modSlots_port (s : State) (f : Slot → Slot) (q : Port) :
    (s.modSlots f).port q = s.port q := rfl
@[simp] theorem modSlots_role (s : State) (f : Slot → Slot) (q : Port) :
    (s.modSlots f).role q = s.role q := rfl
@[simp] theorem modSlots_window (s : State) (f : Slot → Slot) (q : Port) (k : Fin 4) :
    (s.modSlots f).window q k = s.window q k := rfl
@[simp] theorem modSlots_command (s : State) (f : Slot → Slot) (q : Port) :
    (s.modSlots f).command q = s.command q := rfl
@[simp] theorem modSlots_transfer (s : State) (f : Slot → Slot) (q : Port) :
    (s.modSlots f).transfer q = s.transfer q := rfl

@[simp] theorem modSched_ready (s : State) (f : Scheduler → Scheduler) : (s.modSched f).ready = s.ready := rfl
@[simp] theorem modSched_config (s : State) (f : Scheduler → Scheduler) : (s.modSched f).config = s.config := rfl
@[simp] theorem modSched_roles (s : State) (f : Scheduler → Scheduler) : (s.modSched f).roles = s.roles := rfl
@[simp] theorem modSched_slots (s : State) (f : Scheduler → Scheduler) : (s.modSched f).slots = s.slots := rfl
@[simp] theorem modSched_ports (s : State) (f : Scheduler → Scheduler) : (s.modSched f).ports = s.ports := rfl
@[simp] theorem modSched_spiA (s : State) (f : Scheduler → Scheduler) : (s.modSched f).spiA = s.spiA := rfl
@[simp] theorem modSched_spiB (s : State) (f : Scheduler → Scheduler) : (s.modSched f).spiB = s.spiB := rfl
@[simp] theorem modSched_i2c (s : State) (f : Scheduler → Scheduler) : (s.modSched f).i2c = s.i2c := rfl
@[simp] theorem modSched_engine (s : State) (f : Scheduler → Scheduler) : (s.modSched f).engine = s.engine := rfl
@[simp] theorem modSched_handed (s : State) (f : Scheduler → Scheduler) : (s.modSched f).handed = s.handed := rfl
@[simp] theorem modSched_queue (s : State) (f : Scheduler → Scheduler) : (s.modSched f).queue = s.queue := rfl
@[simp] theorem modSched_out (s : State) (f : Scheduler → Scheduler) : (s.modSched f).out = s.out := rfl
@[simp] theorem modSched_capture (s : State) (f : Scheduler → Scheduler) : (s.modSched f).capture = s.capture := rfl
@[simp] theorem modSched_store (s : State) (f : Scheduler → Scheduler) : (s.modSched f).store = s.store := rfl
@[simp] theorem modSched_phase (s : State) (f : Scheduler → Scheduler) : (s.modSched f).phase = s.phase := rfl
@[simp] theorem modSched_pins (s : State) (f : Scheduler → Scheduler) : (s.modSched f).pins = s.pins := rfl
@[simp] theorem modSched_pending (s : State) (f : Scheduler → Scheduler) : (s.modSched f).pending = s.pending := rfl
@[simp] theorem modSched_slot (s : State) (f : Scheduler → Scheduler) (j : Fin 16) :
    (s.modSched f).slot j = s.slot j := rfl
@[simp] theorem modSched_port (s : State) (f : Scheduler → Scheduler) (q : Port) :
    (s.modSched f).port q = s.port q := rfl
@[simp] theorem modSched_role (s : State) (f : Scheduler → Scheduler) (q : Port) :
    (s.modSched f).role q = s.role q := rfl
@[simp] theorem modSched_window (s : State) (f : Scheduler → Scheduler) (q : Port) (k : Fin 4) :
    (s.modSched f).window q k = s.window q k := rfl
@[simp] theorem modSched_command (s : State) (f : Scheduler → Scheduler) (q : Port) :
    (s.modSched f).command q = s.command q := rfl
@[simp] theorem modSched_transfer (s : State) (f : Scheduler → Scheduler) (q : Port) :
    (s.modSched f).transfer q = s.transfer q := rfl

@[simp] theorem modWindow_ready (s : State) (p : Port) (w : Fin 4) (f : Window → Window) : (s.modWindow p w f).ready = s.ready := rfl
@[simp] theorem modWindow_config (s : State) (p : Port) (w : Fin 4) (f : Window → Window) : (s.modWindow p w f).config = s.config := rfl
@[simp] theorem modWindow_roles (s : State) (p : Port) (w : Fin 4) (f : Window → Window) : (s.modWindow p w f).roles = s.roles := rfl
@[simp] theorem modWindow_slots (s : State) (p : Port) (w : Fin 4) (f : Window → Window) : (s.modWindow p w f).slots = s.slots := rfl
@[simp] theorem modWindow_spiA (s : State) (p : Port) (w : Fin 4) (f : Window → Window) : (s.modWindow p w f).spiA = s.spiA := rfl
@[simp] theorem modWindow_spiB (s : State) (p : Port) (w : Fin 4) (f : Window → Window) : (s.modWindow p w f).spiB = s.spiB := rfl
@[simp] theorem modWindow_i2c (s : State) (p : Port) (w : Fin 4) (f : Window → Window) : (s.modWindow p w f).i2c = s.i2c := rfl
@[simp] theorem modWindow_engine (s : State) (p : Port) (w : Fin 4) (f : Window → Window) : (s.modWindow p w f).engine = s.engine := rfl
@[simp] theorem modWindow_handed (s : State) (p : Port) (w : Fin 4) (f : Window → Window) : (s.modWindow p w f).handed = s.handed := rfl
@[simp] theorem modWindow_sched (s : State) (p : Port) (w : Fin 4) (f : Window → Window) : (s.modWindow p w f).sched = s.sched := rfl
@[simp] theorem modWindow_queue (s : State) (p : Port) (w : Fin 4) (f : Window → Window) : (s.modWindow p w f).queue = s.queue := rfl
@[simp] theorem modWindow_out (s : State) (p : Port) (w : Fin 4) (f : Window → Window) : (s.modWindow p w f).out = s.out := rfl
@[simp] theorem modWindow_capture (s : State) (p : Port) (w : Fin 4) (f : Window → Window) : (s.modWindow p w f).capture = s.capture := rfl
@[simp] theorem modWindow_store (s : State) (p : Port) (w : Fin 4) (f : Window → Window) : (s.modWindow p w f).store = s.store := rfl
@[simp] theorem modWindow_phase (s : State) (p : Port) (w : Fin 4) (f : Window → Window) : (s.modWindow p w f).phase = s.phase := rfl
@[simp] theorem modWindow_pins (s : State) (p : Port) (w : Fin 4) (f : Window → Window) : (s.modWindow p w f).pins = s.pins := rfl
@[simp] theorem modWindow_pending (s : State) (p : Port) (w : Fin 4) (f : Window → Window) : (s.modWindow p w f).pending = s.pending := rfl
@[simp] theorem modWindow_slot (s : State) (p : Port) (w : Fin 4) (f : Window → Window) (j : Fin 16) :
    (s.modWindow p w f).slot j = s.slot j := rfl
@[simp] theorem modWindow_role (s : State) (p : Port) (w : Fin 4) (f : Window → Window) (q : Port) :
    (s.modWindow p w f).role q = s.role q := rfl
@[simp] theorem modWindow_transfer (s : State) (p : Port) (w : Fin 4) (f : Window → Window) (q : Port) :
    (s.modWindow p w f).transfer q = s.transfer q := rfl

@[simp] theorem modCommand_ready (s : State) (p : Port) (f : CommandSlot → CommandSlot) : (s.modCommand p f).ready = s.ready := rfl
@[simp] theorem modCommand_config (s : State) (p : Port) (f : CommandSlot → CommandSlot) : (s.modCommand p f).config = s.config := rfl
@[simp] theorem modCommand_roles (s : State) (p : Port) (f : CommandSlot → CommandSlot) : (s.modCommand p f).roles = s.roles := rfl
@[simp] theorem modCommand_slots (s : State) (p : Port) (f : CommandSlot → CommandSlot) : (s.modCommand p f).slots = s.slots := rfl
@[simp] theorem modCommand_spiA (s : State) (p : Port) (f : CommandSlot → CommandSlot) : (s.modCommand p f).spiA = s.spiA := rfl
@[simp] theorem modCommand_spiB (s : State) (p : Port) (f : CommandSlot → CommandSlot) : (s.modCommand p f).spiB = s.spiB := rfl
@[simp] theorem modCommand_i2c (s : State) (p : Port) (f : CommandSlot → CommandSlot) : (s.modCommand p f).i2c = s.i2c := rfl
@[simp] theorem modCommand_engine (s : State) (p : Port) (f : CommandSlot → CommandSlot) : (s.modCommand p f).engine = s.engine := rfl
@[simp] theorem modCommand_handed (s : State) (p : Port) (f : CommandSlot → CommandSlot) : (s.modCommand p f).handed = s.handed := rfl
@[simp] theorem modCommand_sched (s : State) (p : Port) (f : CommandSlot → CommandSlot) : (s.modCommand p f).sched = s.sched := rfl
@[simp] theorem modCommand_queue (s : State) (p : Port) (f : CommandSlot → CommandSlot) : (s.modCommand p f).queue = s.queue := rfl
@[simp] theorem modCommand_out (s : State) (p : Port) (f : CommandSlot → CommandSlot) : (s.modCommand p f).out = s.out := rfl
@[simp] theorem modCommand_capture (s : State) (p : Port) (f : CommandSlot → CommandSlot) : (s.modCommand p f).capture = s.capture := rfl
@[simp] theorem modCommand_store (s : State) (p : Port) (f : CommandSlot → CommandSlot) : (s.modCommand p f).store = s.store := rfl
@[simp] theorem modCommand_phase (s : State) (p : Port) (f : CommandSlot → CommandSlot) : (s.modCommand p f).phase = s.phase := rfl
@[simp] theorem modCommand_pins (s : State) (p : Port) (f : CommandSlot → CommandSlot) : (s.modCommand p f).pins = s.pins := rfl
@[simp] theorem modCommand_pending (s : State) (p : Port) (f : CommandSlot → CommandSlot) : (s.modCommand p f).pending = s.pending := rfl
@[simp] theorem modCommand_slot (s : State) (p : Port) (f : CommandSlot → CommandSlot) (j : Fin 16) :
    (s.modCommand p f).slot j = s.slot j := rfl
@[simp] theorem modCommand_role (s : State) (p : Port) (f : CommandSlot → CommandSlot) (q : Port) :
    (s.modCommand p f).role q = s.role q := rfl
@[simp] theorem modCommand_transfer (s : State) (p : Port) (f : CommandSlot → CommandSlot) (q : Port) :
    (s.modCommand p f).transfer q = s.transfer q := rfl

@[simp] theorem raise_ready (s : State) (e : Event) (p : Port) : (s.raise e p).ready = s.ready := rfl
@[simp] theorem raise_config (s : State) (e : Event) (p : Port) : (s.raise e p).config = s.config := rfl
@[simp] theorem raise_roles (s : State) (e : Event) (p : Port) : (s.raise e p).roles = s.roles := rfl
@[simp] theorem raise_slots (s : State) (e : Event) (p : Port) : (s.raise e p).slots = s.slots := rfl
@[simp] theorem raise_spiA (s : State) (e : Event) (p : Port) : (s.raise e p).spiA = s.spiA := rfl
@[simp] theorem raise_spiB (s : State) (e : Event) (p : Port) : (s.raise e p).spiB = s.spiB := rfl
@[simp] theorem raise_i2c (s : State) (e : Event) (p : Port) : (s.raise e p).i2c = s.i2c := rfl
@[simp] theorem raise_engine (s : State) (e : Event) (p : Port) : (s.raise e p).engine = s.engine := rfl
@[simp] theorem raise_handed (s : State) (e : Event) (p : Port) : (s.raise e p).handed = s.handed := rfl
@[simp] theorem raise_sched (s : State) (e : Event) (p : Port) : (s.raise e p).sched = s.sched := rfl
@[simp] theorem raise_queue (s : State) (e : Event) (p : Port) : (s.raise e p).queue = s.queue := rfl
@[simp] theorem raise_out (s : State) (e : Event) (p : Port) : (s.raise e p).out = s.out := rfl
@[simp] theorem raise_capture (s : State) (e : Event) (p : Port) : (s.raise e p).capture = s.capture := rfl
@[simp] theorem raise_store (s : State) (e : Event) (p : Port) : (s.raise e p).store = s.store := rfl
@[simp] theorem raise_phase (s : State) (e : Event) (p : Port) : (s.raise e p).phase = s.phase := rfl
@[simp] theorem raise_pins (s : State) (e : Event) (p : Port) : (s.raise e p).pins = s.pins := rfl
@[simp] theorem raise_pending (s : State) (e : Event) (p : Port) : (s.raise e p).pending = s.pending := rfl
@[simp] theorem raise_slot (s : State) (e : Event) (p : Port) (j : Fin 16) :
    (s.raise e p).slot j = s.slot j := rfl
@[simp] theorem raise_role (s : State) (e : Event) (p : Port) (q : Port) :
    (s.raise e p).role q = s.role q := rfl
@[simp] theorem raise_transfer (s : State) (e : Event) (p : Port) (q : Port) :
    (s.raise e p).transfer q = s.transfer q := rfl

@[simp] theorem raiseAll_ready (s : State) (e : Event) : (s.raiseAll e).ready = s.ready := rfl
@[simp] theorem raiseAll_config (s : State) (e : Event) : (s.raiseAll e).config = s.config := rfl
@[simp] theorem raiseAll_roles (s : State) (e : Event) : (s.raiseAll e).roles = s.roles := rfl
@[simp] theorem raiseAll_slots (s : State) (e : Event) : (s.raiseAll e).slots = s.slots := rfl
@[simp] theorem raiseAll_spiA (s : State) (e : Event) : (s.raiseAll e).spiA = s.spiA := rfl
@[simp] theorem raiseAll_spiB (s : State) (e : Event) : (s.raiseAll e).spiB = s.spiB := rfl
@[simp] theorem raiseAll_i2c (s : State) (e : Event) : (s.raiseAll e).i2c = s.i2c := rfl
@[simp] theorem raiseAll_engine (s : State) (e : Event) : (s.raiseAll e).engine = s.engine := rfl
@[simp] theorem raiseAll_handed (s : State) (e : Event) : (s.raiseAll e).handed = s.handed := rfl
@[simp] theorem raiseAll_sched (s : State) (e : Event) : (s.raiseAll e).sched = s.sched := rfl
@[simp] theorem raiseAll_queue (s : State) (e : Event) : (s.raiseAll e).queue = s.queue := rfl
@[simp] theorem raiseAll_out (s : State) (e : Event) : (s.raiseAll e).out = s.out := rfl
@[simp] theorem raiseAll_capture (s : State) (e : Event) : (s.raiseAll e).capture = s.capture := rfl
@[simp] theorem raiseAll_store (s : State) (e : Event) : (s.raiseAll e).store = s.store := rfl
@[simp] theorem raiseAll_phase (s : State) (e : Event) : (s.raiseAll e).phase = s.phase := rfl
@[simp] theorem raiseAll_pins (s : State) (e : Event) : (s.raiseAll e).pins = s.pins := rfl
@[simp] theorem raiseAll_pending (s : State) (e : Event) : (s.raiseAll e).pending = s.pending := rfl
@[simp] theorem raiseAll_slot (s : State) (e : Event) (j : Fin 16) :
    (s.raiseAll e).slot j = s.slot j := rfl
@[simp] theorem raiseAll_role (s : State) (e : Event) (q : Port) :
    (s.raiseAll e).role q = s.role q := rfl
@[simp] theorem raiseAll_transfer (s : State) (e : Event) (q : Port) :
    (s.raiseAll e).transfer q = s.transfer q := rfl

@[simp] theorem refuse_ready (s : State) (p : Port) : (s.refuse p).ready = s.ready := rfl
@[simp] theorem refuse_config (s : State) (p : Port) : (s.refuse p).config = s.config := rfl
@[simp] theorem refuse_roles (s : State) (p : Port) : (s.refuse p).roles = s.roles := rfl
@[simp] theorem refuse_slots (s : State) (p : Port) : (s.refuse p).slots = s.slots := rfl
@[simp] theorem refuse_spiA (s : State) (p : Port) : (s.refuse p).spiA = s.spiA := rfl
@[simp] theorem refuse_spiB (s : State) (p : Port) : (s.refuse p).spiB = s.spiB := rfl
@[simp] theorem refuse_i2c (s : State) (p : Port) : (s.refuse p).i2c = s.i2c := rfl
@[simp] theorem refuse_engine (s : State) (p : Port) : (s.refuse p).engine = s.engine := rfl
@[simp] theorem refuse_handed (s : State) (p : Port) : (s.refuse p).handed = s.handed := rfl
@[simp] theorem refuse_sched (s : State) (p : Port) : (s.refuse p).sched = s.sched := rfl
@[simp] theorem refuse_queue (s : State) (p : Port) : (s.refuse p).queue = s.queue := rfl
@[simp] theorem refuse_out (s : State) (p : Port) : (s.refuse p).out = s.out := rfl
@[simp] theorem refuse_capture (s : State) (p : Port) : (s.refuse p).capture = s.capture := rfl
@[simp] theorem refuse_store (s : State) (p : Port) : (s.refuse p).store = s.store := rfl
@[simp] theorem refuse_phase (s : State) (p : Port) : (s.refuse p).phase = s.phase := rfl
@[simp] theorem refuse_pins (s : State) (p : Port) : (s.refuse p).pins = s.pins := rfl
@[simp] theorem refuse_pending (s : State) (p : Port) : (s.refuse p).pending = s.pending := rfl
@[simp] theorem refuse_slot (s : State) (p : Port) (j : Fin 16) :
    (s.refuse p).slot j = s.slot j := rfl
@[simp] theorem refuse_role (s : State) (p : Port) (q : Port) :
    (s.refuse p).role q = s.role q := rfl
@[simp] theorem refuse_transfer (s : State) (p : Port) (q : Port) :
    (s.refuse p).transfer q = s.transfer q := rfl

@[simp] theorem settle_ready (s : State) : (s.settle).ready = s.ready := rfl
@[simp] theorem settle_config (s : State) : (s.settle).config = s.config := rfl
@[simp] theorem settle_roles (s : State) : (s.settle).roles = s.roles := rfl
@[simp] theorem settle_slots (s : State) : (s.settle).slots = s.slots := rfl
@[simp] theorem settle_spiA (s : State) : (s.settle).spiA = s.spiA := rfl
@[simp] theorem settle_spiB (s : State) : (s.settle).spiB = s.spiB := rfl
@[simp] theorem settle_i2c (s : State) : (s.settle).i2c = s.i2c := rfl
@[simp] theorem settle_engine (s : State) : (s.settle).engine = s.engine := rfl
@[simp] theorem settle_handed (s : State) : (s.settle).handed = s.handed := rfl
@[simp] theorem settle_sched (s : State) : (s.settle).sched = s.sched := rfl
@[simp] theorem settle_queue (s : State) : (s.settle).queue = s.queue := rfl
@[simp] theorem settle_out (s : State) : (s.settle).out = s.out := rfl
@[simp] theorem settle_capture (s : State) : (s.settle).capture = s.capture := rfl
@[simp] theorem settle_store (s : State) : (s.settle).store = s.store := rfl
@[simp] theorem settle_phase (s : State) : (s.settle).phase = s.phase := rfl
@[simp] theorem settle_pending (s : State) : (s.settle).pending = s.pending := rfl
@[simp] theorem settle_slot (s : State) (j : Fin 16) :
    (s.settle).slot j = s.slot j := rfl
@[simp] theorem settle_role (s : State) (q : Port) :
    (s.settle).role q = s.role q := rfl
@[simp] theorem settle_transfer (s : State) (q : Port) :
    (s.settle).transfer q = s.transfer q := rfl

@[simp] theorem failWindow_ready (s : State) (p : Port) (w : Fin 4) (c : Cause) (d : Byte) : (s.failWindow p w c d).ready = s.ready := rfl
@[simp] theorem failWindow_config (s : State) (p : Port) (w : Fin 4) (c : Cause) (d : Byte) : (s.failWindow p w c d).config = s.config := rfl
@[simp] theorem failWindow_roles (s : State) (p : Port) (w : Fin 4) (c : Cause) (d : Byte) : (s.failWindow p w c d).roles = s.roles := rfl
@[simp] theorem failWindow_slots (s : State) (p : Port) (w : Fin 4) (c : Cause) (d : Byte) : (s.failWindow p w c d).slots = s.slots := rfl
@[simp] theorem failWindow_spiA (s : State) (p : Port) (w : Fin 4) (c : Cause) (d : Byte) : (s.failWindow p w c d).spiA = s.spiA := rfl
@[simp] theorem failWindow_spiB (s : State) (p : Port) (w : Fin 4) (c : Cause) (d : Byte) : (s.failWindow p w c d).spiB = s.spiB := rfl
@[simp] theorem failWindow_i2c (s : State) (p : Port) (w : Fin 4) (c : Cause) (d : Byte) : (s.failWindow p w c d).i2c = s.i2c := rfl
@[simp] theorem failWindow_engine (s : State) (p : Port) (w : Fin 4) (c : Cause) (d : Byte) : (s.failWindow p w c d).engine = s.engine := rfl
@[simp] theorem failWindow_handed (s : State) (p : Port) (w : Fin 4) (c : Cause) (d : Byte) : (s.failWindow p w c d).handed = s.handed := rfl
@[simp] theorem failWindow_sched (s : State) (p : Port) (w : Fin 4) (c : Cause) (d : Byte) : (s.failWindow p w c d).sched = s.sched := rfl
@[simp] theorem failWindow_queue (s : State) (p : Port) (w : Fin 4) (c : Cause) (d : Byte) : (s.failWindow p w c d).queue = s.queue := rfl
@[simp] theorem failWindow_out (s : State) (p : Port) (w : Fin 4) (c : Cause) (d : Byte) : (s.failWindow p w c d).out = s.out := rfl
@[simp] theorem failWindow_capture (s : State) (p : Port) (w : Fin 4) (c : Cause) (d : Byte) : (s.failWindow p w c d).capture = s.capture := rfl
@[simp] theorem failWindow_store (s : State) (p : Port) (w : Fin 4) (c : Cause) (d : Byte) : (s.failWindow p w c d).store = s.store := rfl
@[simp] theorem failWindow_phase (s : State) (p : Port) (w : Fin 4) (c : Cause) (d : Byte) : (s.failWindow p w c d).phase = s.phase := rfl
@[simp] theorem failWindow_pins (s : State) (p : Port) (w : Fin 4) (c : Cause) (d : Byte) : (s.failWindow p w c d).pins = s.pins := rfl
@[simp] theorem failWindow_pending (s : State) (p : Port) (w : Fin 4) (c : Cause) (d : Byte) : (s.failWindow p w c d).pending = s.pending := rfl
@[simp] theorem failWindow_slot (s : State) (p : Port) (w : Fin 4) (c : Cause) (d : Byte) (j : Fin 16) :
    (s.failWindow p w c d).slot j = s.slot j := rfl
@[simp] theorem failWindow_role (s : State) (p : Port) (w : Fin 4) (c : Cause) (d : Byte) (q : Port) :
    (s.failWindow p w c d).role q = s.role q := rfl
@[simp] theorem failWindow_transfer (s : State) (p : Port) (w : Fin 4) (c : Cause) (d : Byte) (q : Port) :
    (s.failWindow p w c d).transfer q = s.transfer q := rfl

@[simp] theorem finishWindow_ready (s : State) (p : Port) (w : Fin 4) : (s.finishWindow p w).ready = s.ready := rfl
@[simp] theorem finishWindow_config (s : State) (p : Port) (w : Fin 4) : (s.finishWindow p w).config = s.config := rfl
@[simp] theorem finishWindow_roles (s : State) (p : Port) (w : Fin 4) : (s.finishWindow p w).roles = s.roles := rfl
@[simp] theorem finishWindow_slots (s : State) (p : Port) (w : Fin 4) : (s.finishWindow p w).slots = s.slots := rfl
@[simp] theorem finishWindow_spiA (s : State) (p : Port) (w : Fin 4) : (s.finishWindow p w).spiA = s.spiA := rfl
@[simp] theorem finishWindow_spiB (s : State) (p : Port) (w : Fin 4) : (s.finishWindow p w).spiB = s.spiB := rfl
@[simp] theorem finishWindow_i2c (s : State) (p : Port) (w : Fin 4) : (s.finishWindow p w).i2c = s.i2c := rfl
@[simp] theorem finishWindow_engine (s : State) (p : Port) (w : Fin 4) : (s.finishWindow p w).engine = s.engine := rfl
@[simp] theorem finishWindow_handed (s : State) (p : Port) (w : Fin 4) : (s.finishWindow p w).handed = s.handed := rfl
@[simp] theorem finishWindow_sched (s : State) (p : Port) (w : Fin 4) : (s.finishWindow p w).sched = s.sched := rfl
@[simp] theorem finishWindow_queue (s : State) (p : Port) (w : Fin 4) : (s.finishWindow p w).queue = s.queue := rfl
@[simp] theorem finishWindow_out (s : State) (p : Port) (w : Fin 4) : (s.finishWindow p w).out = s.out := rfl
@[simp] theorem finishWindow_capture (s : State) (p : Port) (w : Fin 4) : (s.finishWindow p w).capture = s.capture := rfl
@[simp] theorem finishWindow_store (s : State) (p : Port) (w : Fin 4) : (s.finishWindow p w).store = s.store := rfl
@[simp] theorem finishWindow_phase (s : State) (p : Port) (w : Fin 4) : (s.finishWindow p w).phase = s.phase := rfl
@[simp] theorem finishWindow_pins (s : State) (p : Port) (w : Fin 4) : (s.finishWindow p w).pins = s.pins := rfl
@[simp] theorem finishWindow_pending (s : State) (p : Port) (w : Fin 4) : (s.finishWindow p w).pending = s.pending := rfl
@[simp] theorem finishWindow_slot (s : State) (p : Port) (w : Fin 4) (j : Fin 16) :
    (s.finishWindow p w).slot j = s.slot j := rfl
@[simp] theorem finishWindow_role (s : State) (p : Port) (w : Fin 4) (q : Port) :
    (s.finishWindow p w).role q = s.role q := rfl
@[simp] theorem finishWindow_transfer (s : State) (p : Port) (w : Fin 4) (q : Port) :
    (s.finishWindow p w).transfer q = s.transfer q := rfl

@[simp] theorem claimLost_ready (s : State) (p : Port) (i : Fin 16) : (s.claimLost p i).ready = s.ready := rfl
@[simp] theorem claimLost_config (s : State) (p : Port) (i : Fin 16) : (s.claimLost p i).config = s.config := rfl
@[simp] theorem claimLost_roles (s : State) (p : Port) (i : Fin 16) : (s.claimLost p i).roles = s.roles := rfl
@[simp] theorem claimLost_slots (s : State) (p : Port) (i : Fin 16) : (s.claimLost p i).slots = s.slots := rfl
@[simp] theorem claimLost_spiA (s : State) (p : Port) (i : Fin 16) : (s.claimLost p i).spiA = s.spiA := rfl
@[simp] theorem claimLost_spiB (s : State) (p : Port) (i : Fin 16) : (s.claimLost p i).spiB = s.spiB := rfl
@[simp] theorem claimLost_i2c (s : State) (p : Port) (i : Fin 16) : (s.claimLost p i).i2c = s.i2c := rfl
@[simp] theorem claimLost_engine (s : State) (p : Port) (i : Fin 16) : (s.claimLost p i).engine = s.engine := rfl
@[simp] theorem claimLost_handed (s : State) (p : Port) (i : Fin 16) : (s.claimLost p i).handed = s.handed := rfl
@[simp] theorem claimLost_sched (s : State) (p : Port) (i : Fin 16) : (s.claimLost p i).sched = s.sched := rfl
@[simp] theorem claimLost_queue (s : State) (p : Port) (i : Fin 16) : (s.claimLost p i).queue = s.queue := rfl
@[simp] theorem claimLost_out (s : State) (p : Port) (i : Fin 16) : (s.claimLost p i).out = s.out := rfl
@[simp] theorem claimLost_capture (s : State) (p : Port) (i : Fin 16) : (s.claimLost p i).capture = s.capture := rfl
@[simp] theorem claimLost_store (s : State) (p : Port) (i : Fin 16) : (s.claimLost p i).store = s.store := rfl
@[simp] theorem claimLost_phase (s : State) (p : Port) (i : Fin 16) : (s.claimLost p i).phase = s.phase := rfl
@[simp] theorem claimLost_pins (s : State) (p : Port) (i : Fin 16) : (s.claimLost p i).pins = s.pins := rfl
@[simp] theorem claimLost_pending (s : State) (p : Port) (i : Fin 16) : (s.claimLost p i).pending = s.pending := rfl
@[simp] theorem claimLost_slot (s : State) (p : Port) (i : Fin 16) (j : Fin 16) :
    (s.claimLost p i).slot j = s.slot j := rfl
@[simp] theorem claimLost_role (s : State) (p : Port) (i : Fin 16) (q : Port) :
    (s.claimLost p i).role q = s.role q := rfl
@[simp] theorem claimLost_transfer (s : State) (p : Port) (i : Fin 16) (q : Port) :
    (s.claimLost p i).transfer q = s.transfer q := rfl

@[simp] theorem afterData_ready (s : State) (p : Port) (a : Byte) : (s.afterData p a).ready = s.ready := by
  unfold State.afterData; split <;> rfl
@[simp] theorem afterData_config (s : State) (p : Port) (a : Byte) : (s.afterData p a).config = s.config := by
  unfold State.afterData; split <;> rfl
@[simp] theorem afterData_roles (s : State) (p : Port) (a : Byte) : (s.afterData p a).roles = s.roles := by
  unfold State.afterData; split <;> rfl
@[simp] theorem afterData_slots (s : State) (p : Port) (a : Byte) : (s.afterData p a).slots = s.slots := by
  unfold State.afterData; split <;> rfl
@[simp] theorem afterData_spiA (s : State) (p : Port) (a : Byte) : (s.afterData p a).spiA = s.spiA := by
  unfold State.afterData; split <;> rfl
@[simp] theorem afterData_spiB (s : State) (p : Port) (a : Byte) : (s.afterData p a).spiB = s.spiB := by
  unfold State.afterData; split <;> rfl
@[simp] theorem afterData_i2c (s : State) (p : Port) (a : Byte) : (s.afterData p a).i2c = s.i2c := by
  unfold State.afterData; split <;> rfl
@[simp] theorem afterData_engine (s : State) (p : Port) (a : Byte) : (s.afterData p a).engine = s.engine := by
  unfold State.afterData; split <;> rfl
@[simp] theorem afterData_handed (s : State) (p : Port) (a : Byte) : (s.afterData p a).handed = s.handed := by
  unfold State.afterData; split <;> rfl
@[simp] theorem afterData_sched (s : State) (p : Port) (a : Byte) : (s.afterData p a).sched = s.sched := by
  unfold State.afterData; split <;> rfl
@[simp] theorem afterData_queue (s : State) (p : Port) (a : Byte) : (s.afterData p a).queue = s.queue := by
  unfold State.afterData; split <;> rfl
@[simp] theorem afterData_out (s : State) (p : Port) (a : Byte) : (s.afterData p a).out = s.out := by
  unfold State.afterData; split <;> rfl
@[simp] theorem afterData_capture (s : State) (p : Port) (a : Byte) : (s.afterData p a).capture = s.capture := by
  unfold State.afterData; split <;> rfl
@[simp] theorem afterData_store (s : State) (p : Port) (a : Byte) : (s.afterData p a).store = s.store := by
  unfold State.afterData; split <;> rfl
@[simp] theorem afterData_phase (s : State) (p : Port) (a : Byte) : (s.afterData p a).phase = s.phase := by
  unfold State.afterData; split <;> rfl
@[simp] theorem afterData_pins (s : State) (p : Port) (a : Byte) : (s.afterData p a).pins = s.pins := by
  unfold State.afterData; split <;> rfl
@[simp] theorem afterData_pending (s : State) (p : Port) (a : Byte) : (s.afterData p a).pending = s.pending := by
  unfold State.afterData; split <;> rfl
@[simp] theorem afterData_slot (s : State) (p : Port) (a : Byte) (j : Fin 16) :
    (s.afterData p a).slot j = s.slot j := by
  unfold State.afterData; split <;> rfl
@[simp] theorem afterData_role (s : State) (p : Port) (a : Byte) (q : Port) :
    (s.afterData p a).role q = s.role q := by
  unfold State.afterData; split <;> rfl
@[simp] theorem afterData_transfer (s : State) (p : Port) (a : Byte) (q : Port) :
    (s.afterData p a).transfer q = s.transfer q := by
  unfold State.afterData; split <;> rfl

@[simp] theorem afterByte_ready (s : State) (p : Port) (w : Bool) (a r : Byte) : (s.afterByte p w a r).ready = s.ready := by cases p <;> rfl
@[simp] theorem afterByte_config (s : State) (p : Port) (w : Bool) (a r : Byte) : (s.afterByte p w a r).config = s.config := by cases p <;> rfl
@[simp] theorem afterByte_roles (s : State) (p : Port) (w : Bool) (a r : Byte) : (s.afterByte p w a r).roles = s.roles := by cases p <;> rfl
@[simp] theorem afterByte_slots (s : State) (p : Port) (w : Bool) (a r : Byte) : (s.afterByte p w a r).slots = s.slots := by cases p <;> rfl
@[simp] theorem afterByte_ports (s : State) (p : Port) (w : Bool) (a r : Byte) : (s.afterByte p w a r).ports = s.ports := by cases p <;> rfl
@[simp] theorem afterByte_engine (s : State) (p : Port) (w : Bool) (a r : Byte) : (s.afterByte p w a r).engine = s.engine := by cases p <;> rfl
@[simp] theorem afterByte_handed (s : State) (p : Port) (w : Bool) (a r : Byte) : (s.afterByte p w a r).handed = s.handed := by cases p <;> rfl
@[simp] theorem afterByte_sched (s : State) (p : Port) (w : Bool) (a r : Byte) : (s.afterByte p w a r).sched = s.sched := by cases p <;> rfl
@[simp] theorem afterByte_queue (s : State) (p : Port) (w : Bool) (a r : Byte) : (s.afterByte p w a r).queue = s.queue := by cases p <;> rfl
@[simp] theorem afterByte_out (s : State) (p : Port) (w : Bool) (a r : Byte) : (s.afterByte p w a r).out = s.out := by cases p <;> rfl
@[simp] theorem afterByte_capture (s : State) (p : Port) (w : Bool) (a r : Byte) : (s.afterByte p w a r).capture = s.capture := by cases p <;> rfl
@[simp] theorem afterByte_store (s : State) (p : Port) (w : Bool) (a r : Byte) : (s.afterByte p w a r).store = s.store := by cases p <;> rfl
@[simp] theorem afterByte_phase (s : State) (p : Port) (w : Bool) (a r : Byte) : (s.afterByte p w a r).phase = s.phase := by cases p <;> rfl
@[simp] theorem afterByte_pins (s : State) (p : Port) (w : Bool) (a r : Byte) : (s.afterByte p w a r).pins = s.pins := by cases p <;> rfl
@[simp] theorem afterByte_pending (s : State) (p : Port) (w : Bool) (a r : Byte) : (s.afterByte p w a r).pending = s.pending := by cases p <;> rfl
@[simp] theorem afterByte_slot (s : State) (p : Port) (w : Bool) (a r : Byte) (j : Fin 16) :
    (s.afterByte p w a r).slot j = s.slot j := by cases p <;> rfl
@[simp] theorem afterByte_port (s : State) (p : Port) (w : Bool) (a r : Byte) (q : Port) :
    (s.afterByte p w a r).port q = s.port q := by cases p <;> rfl
@[simp] theorem afterByte_role (s : State) (p : Port) (w : Bool) (a r : Byte) (q : Port) :
    (s.afterByte p w a r).role q = s.role q := by cases p <;> rfl
@[simp] theorem afterByte_window (s : State) (p : Port) (w : Bool) (a r : Byte) (q : Port) (k : Fin 4) :
    (s.afterByte p w a r).window q k = s.window q k := by cases p <;> rfl
@[simp] theorem afterByte_command (s : State) (p : Port) (w : Bool) (a r : Byte) (q : Port) :
    (s.afterByte p w a r).command q = s.command q := by cases p <;> rfl

@[simp] theorem setSpi_ready (s : State) (p : SpiPort) (x : Spi) : (s.setSpi p x).ready = s.ready := by cases p <;> rfl
@[simp] theorem setSpi_config (s : State) (p : SpiPort) (x : Spi) : (s.setSpi p x).config = s.config := by cases p <;> rfl
@[simp] theorem setSpi_roles (s : State) (p : SpiPort) (x : Spi) : (s.setSpi p x).roles = s.roles := by cases p <;> rfl
@[simp] theorem setSpi_slots (s : State) (p : SpiPort) (x : Spi) : (s.setSpi p x).slots = s.slots := by cases p <;> rfl
@[simp] theorem setSpi_ports (s : State) (p : SpiPort) (x : Spi) : (s.setSpi p x).ports = s.ports := by cases p <;> rfl
@[simp] theorem setSpi_i2c (s : State) (p : SpiPort) (x : Spi) : (s.setSpi p x).i2c = s.i2c := by cases p <;> rfl
@[simp] theorem setSpi_engine (s : State) (p : SpiPort) (x : Spi) : (s.setSpi p x).engine = s.engine := by cases p <;> rfl
@[simp] theorem setSpi_handed (s : State) (p : SpiPort) (x : Spi) : (s.setSpi p x).handed = s.handed := by cases p <;> rfl
@[simp] theorem setSpi_sched (s : State) (p : SpiPort) (x : Spi) : (s.setSpi p x).sched = s.sched := by cases p <;> rfl
@[simp] theorem setSpi_queue (s : State) (p : SpiPort) (x : Spi) : (s.setSpi p x).queue = s.queue := by cases p <;> rfl
@[simp] theorem setSpi_out (s : State) (p : SpiPort) (x : Spi) : (s.setSpi p x).out = s.out := by cases p <;> rfl
@[simp] theorem setSpi_capture (s : State) (p : SpiPort) (x : Spi) : (s.setSpi p x).capture = s.capture := by cases p <;> rfl
@[simp] theorem setSpi_store (s : State) (p : SpiPort) (x : Spi) : (s.setSpi p x).store = s.store := by cases p <;> rfl
@[simp] theorem setSpi_phase (s : State) (p : SpiPort) (x : Spi) : (s.setSpi p x).phase = s.phase := by cases p <;> rfl
@[simp] theorem setSpi_pins (s : State) (p : SpiPort) (x : Spi) : (s.setSpi p x).pins = s.pins := by cases p <;> rfl
@[simp] theorem setSpi_pending (s : State) (p : SpiPort) (x : Spi) : (s.setSpi p x).pending = s.pending := by cases p <;> rfl
@[simp] theorem setSpi_slot (s : State) (p : SpiPort) (x : Spi) (j : Fin 16) :
    (s.setSpi p x).slot j = s.slot j := by cases p <;> rfl
@[simp] theorem setSpi_port (s : State) (p : SpiPort) (x : Spi) (q : Port) :
    (s.setSpi p x).port q = s.port q := by cases p <;> rfl
@[simp] theorem setSpi_role (s : State) (p : SpiPort) (x : Spi) (q : Port) :
    (s.setSpi p x).role q = s.role q := by cases p <;> rfl
@[simp] theorem setSpi_window (s : State) (p : SpiPort) (x : Spi) (q : Port) (k : Fin 4) :
    (s.setSpi p x).window q k = s.window q k := by cases p <;> rfl
@[simp] theorem setSpi_command (s : State) (p : SpiPort) (x : Spi) (q : Port) :
    (s.setSpi p x).command q = s.command q := by cases p <;> rfl

end Sys2Proof.Machine.State
end

