-- ==== Sys2Proof/Laws/Updates.lean ====
section
/-! SUPPORT. What each update does to the part it names: reads after writes of ports, slots, windows and command slots, and
updates that follow one another. -/

namespace Sys2Proof.Machine

@[simp] theorem PerPort.get_set_self {α : Type} (x : PerPort α) (p : Port) (v : α) : (x.set p v).get p = v := by
  cases p <;> rfl

theorem PerPort.get_set_ne {α : Type} (x : PerPort α) {p q : Port} (v : α) (h : q ≠ p) : (x.set p v).get q = x.get q := by
  cases p <;> cases q <;> first | rfl | exact absurd rfl h

@[simp] theorem PerPort.get_map {α β : Type} (f : α → β) (x : PerPort α) (p : Port) : (x.map f).get p = f (x.get p) := by
  cases p <;> rfl

@[simp] theorem PerPort.set_set {α : Type} (x : PerPort α) (p : Port) (v w : α) : (x.set p v).set p w = x.set p w := by
  cases p <;> rfl

@[simp] theorem PerPort.set_get {α : Type} (x : PerPort α) (p : Port) : x.set p (x.get p) = x := by
  cases p <;> rfl

theorem PerPort.ext_get {α : Type} {x y : PerPort α} (h : ∀ p, x.get p = y.get p) : x = y := by
  have ha := h .a; have hb := h .b; have hc := h .c
  cases x; cases y; simp_all [PerPort.get]

theorem PerPort.forall_get {α : Type} {x : PerPort α} {P : α → Prop} : (∀ p, P (x.get p)) ↔ P x.a ∧ P x.b ∧ P x.c :=
  ⟨fun h => ⟨h .a, h .b, h .c⟩, fun ⟨ha, hb, hc⟩ p => by cases p <;> assumption⟩

namespace State

/-- A port's accessor is the port part read. -/
theorem port_def (s : State) (p : Port) : s.port p = s.ports.get p := rfl

@[simp] theorem modPort_port_self (s : State) (p : Port) (f : PortContext → PortContext) :
    (s.modPort p f).port p = f (s.port p) := by cases p <;> rfl

theorem modPort_port_ne (s : State) {p q : Port} (f : PortContext → PortContext) (h : q ≠ p) :
    (s.modPort p f).port q = s.port q := PerPort.get_set_ne _ _ h

theorem modPort_port (s : State) (p q : Port) (f : PortContext → PortContext) :
    (s.modPort p f).port q = if q = p then f (s.port p) else s.port q := by
  split
  · next h => subst h; simp
  · next h => exact modPort_port_ne s f h

@[simp] theorem modPorts_port (s : State) (f : PortContext → PortContext) (q : Port) :
    (s.modPorts f).port q = f (s.port q) := by cases q <;> rfl

@[simp] theorem modSlot_slot_self (s : State) (i : Fin 16) (f : Slot → Slot) : (s.modSlot i f).slot i = f (s.slot i) := by
  simp [modSlot, slot]

theorem modSlot_slot_ne (s : State) {i j : Fin 16} (f : Slot → Slot) (h : j ≠ i) :
    (s.modSlot i f).slot j = s.slot j := by
  have : i.val ≠ j.val := fun e => h (Fin.ext e.symm)
  simp [modSlot, slot, this]

theorem modSlot_slot (s : State) (i j : Fin 16) (f : Slot → Slot) :
    (s.modSlot i f).slot j = if j = i then f (s.slot i) else s.slot j := by
  split
  · next h => subst h; simp
  · next h => exact modSlot_slot_ne s f h

@[simp] theorem modSlots_slot (s : State) (f : Slot → Slot) (j : Fin 16) : (s.modSlots f).slot j = f (s.slot j) := by
  simp [modSlots, slot]

@[simp] theorem modSched_sched (s : State) (f : Scheduler → Scheduler) : (s.modSched f).sched = f s.sched := rfl

@[simp] theorem modWindow_window_self (s : State) (p : Port) (w : Fin 4) (f : Window → Window) :
    (s.modWindow p w f).window p w = f (s.window p w) := by
  simp [modWindow, window]

theorem modWindow_window_ne (s : State) {p q : Port} {w k : Fin 4} (f : Window → Window) (h : q = p → k ≠ w) :
    (s.modWindow p w f).window q k = s.window q k := by
  by_cases e : q = p
  · subst e
    have : w.val ≠ k.val := fun e' => h rfl (Fin.ext e'.symm)
    simp [modWindow, window, this]
  · simp [modWindow, window, modPort_port_ne _ _ e]

@[simp] theorem raise_window (s : State) (e : Event) (p q : Port) (w : Fin 4) :
    (s.raise e p).window q w = s.window q w := by
  simp only [raise, window, modPort_port]; split
  · next h => subst h; rfl
  · rfl

@[simp] theorem raiseAll_window (s : State) (e : Event) (q : Port) (w : Fin 4) :
    (s.raiseAll e).window q w = s.window q w := by simp [raiseAll, window, PortContext.raise]

@[simp] theorem refuse_window (s : State) (p q : Port) (w : Fin 4) : (s.refuse p).window q w = s.window q w := by
  simp only [refuse, window, modPort_port]; split
  · next h => subst h; rfl
  · rfl

@[simp] theorem settle_window (s : State) (q : Port) (w : Fin 4) : s.settle.window q w = s.window q w := by
  cases q <;> rfl

@[simp] theorem modCommand_window (s : State) (p q : Port) (f : CommandSlot → CommandSlot) (w : Fin 4) :
    (s.modCommand p f).window q w = s.window q w := by
  simp only [modCommand, window, modPort_port]; split
  · next h => subst h; rfl
  · rfl

@[simp] theorem afterData_window (s : State) (p q : Port) (a : Byte) (w : Fin 4) :
    (s.afterData p a).window q w = s.window q w := by
  unfold afterData; split
  · simp only [window, modPort_port]; split
    · next h => subst h; rfl
    · rfl
  · rfl

@[simp] theorem modCommand_command_self (s : State) (p : Port) (f : CommandSlot → CommandSlot) :
    (s.modCommand p f).command p = f (s.command p) := by simp [modCommand, command]

theorem modCommand_command_ne (s : State) {p q : Port} (f : CommandSlot → CommandSlot) (h : q ≠ p) :
    (s.modCommand p f).command q = s.command q := by simp [modCommand, command, modPort_port_ne _ _ h]

@[simp] theorem modPort_modPort (s : State) (p : Port) (f g : PortContext → PortContext) :
    (s.modPort p f).modPort p g = s.modPort p fun c => g (f c) := by cases p <;> rfl

@[simp] theorem modPorts_modPorts (s : State) (f g : PortContext → PortContext) :
    (s.modPorts f).modPorts g = s.modPorts fun c => g (f c) := rfl

@[simp] theorem modSched_modSched (s : State) (f g : Scheduler → Scheduler) :
    (s.modSched f).modSched g = s.modSched fun c => g (f c) := rfl

@[simp] theorem modCommand_modCommand (s : State) (p : Port) (f g : CommandSlot → CommandSlot) :
    (s.modCommand p f).modCommand p g = s.modCommand p fun c => g (f c) := by cases p <;> rfl

@[simp] theorem modSlot_modSlot (s : State) (i : Fin 16) (f g : Slot → Slot) :
    (s.modSlot i f).modSlot i g = s.modSlot i fun x => g (f x) := by
  simp only [modSlot, State.mk.injEq, true_and, and_true]
  simp [slot]

/-- Updates of different parts can be made in either order. -/
theorem modSlot_modCommand (s : State) (i : Fin 16) (f : Slot → Slot) (p : Port) (g : CommandSlot → CommandSlot) :
    (s.modCommand p g).modSlot i f = (s.modSlot i f).modCommand p g := rfl

theorem modSlot_modPort (s : State) (i : Fin 16) (f : Slot → Slot) (p : Port) (g : PortContext → PortContext) :
    (s.modPort p g).modSlot i f = (s.modSlot i f).modPort p g := rfl

/-! ### The end of a command -/

theorem settle_port (s : State) (p : Port) : s.settle.port p = (s.port p).settle := by cases p <;> rfl

@[simp] theorem settle_attn (s : State) : s.settle.pins.attn = (s.ports.map (·.settle)).map (·.attention) := rfl

@[simp] theorem settle_linkDe (s : State) : s.settle.pins.linkDe = s.transmitEnable := rfl

@[simp] theorem settle_linkstat (s : State) : s.settle.pins.linkstat = s.linkstatLevel := rfl

@[simp] theorem settle_capt (s : State) : s.settle.pins.capt = s.pins.capt := rfl

end State

/-- Bits masked off and set anew are as when done once. -/
theorem Byte.mask_or_mask_or (x m y : Byte) : ((x &&& ~~~m ||| y) &&& ~~~m) ||| y = x &&& ~~~m ||| y := by
  apply BitVec.eq_of_getLsbD_eq
  intro i hi
  simp only [BitVec.getLsbD_or, BitVec.getLsbD_and, BitVec.getLsbD_not, hi, decide_true, Bool.true_and]
  cases x.getLsbD i <;> cases m.getLsbD i <;> cases y.getLsbD i <;> rfl

theorem PortContext.settle_events (c : PortContext) :
    c.settle.events = (c.events &&& ~~~captureReadyMask) ||| (if c.hasRecord then captureReadyMask else 0) := rfl

@[simp] theorem PortContext.settle_settle (c : PortContext) : c.settle.settle = c.settle := by
  have h : c.settle.settle.events = c.settle.events := by
    rw [settle_events]
    exact Byte.mask_or_mask_or c.events captureReadyMask (if c.hasRecord then captureReadyMask else 0)
  have : c.settle.settle = { c.settle with events := c.settle.settle.events } := rfl
  rw [this, h]

/-- Settling twice settles once. -/
@[simp] theorem State.settle_settle (s : State) : s.settle.settle = s.settle := by
  have h : (s.ports.map (·.settle)).map (·.settle) = s.ports.map (·.settle) := by
    simp [PerPort.map]
  simp only [State.settle, State.modPorts, State.drivenPins, State.linkstatLevel, State.linkstatAsserted, State.mk.injEq]
  simp only [h]
  simp
  exact ⟨rfl, rfl⟩

end Sys2Proof.Machine
end

