-- ==== Sys2Proof/Laws/Access.lean ====
section
/-! SUPPORT. What a byte access and a write of CMD do: one lemma for each case of the access, the command slot and the
checks. -/

namespace Sys2Proof.Machine.State

/-- The machine moves a transport on as the word of Safety.lean says. -/
theorem afterByte_eq_byteCarried (s : State) (p : Port) (w : Bool) (a r : Byte) :
    s.afterByte p w a r = s.byteCarried p w a r := by
  cases p <;> rfl

/-- What an access leaves beside its owner's effect, by the machine's operations. -/
theorem accessDone_eq (s : State) (p : Port) (w : Bool) (a r : Byte) :
    s.accessDone p w a r = ((s.afterData p a).afterByte p w a r).settle := by
  rw [afterByte_eq_byteCarried]; rfl

/-- Every command answers a settled next state. -/
theorem exec_settles (i : Instr) (s : State) : ∃ u : State, exec i s = .next u.settle := by
  cases i <;> exact ⟨_, rfl⟩

/-- An access the row owns, after READY. -/
theorem access_mine {s : State} {p : Port} {x : Access} {a : Byte} {mine : Target → Bool}
    {value : Target → State → Byte} {effect : Target → State → State} (h : s.Stands p x.isWrite a)
    (hm : mine (s.target p a) = true) :
    s.access p x mine value effect =
      ((effect (s.target p a) s).afterData p a).afterByte p x.isWrite a (value (s.target p a) s) := by
  simp [access, h.1, h.2, hm]

/-- An access the row does not own (log entry 1). -/
theorem access_not_mine {s : State} {p : Port} {x : Access} {a : Byte} {mine : Target → Bool}
    {value : Target → State → Byte} {effect : Target → State → State} (h : s.Stands p x.isWrite a)
    (hm : mine (s.target p a) = false) : s.access p x mine value effect = s := by
  simp [access, h.1, h.2, hm]

/-- An access during LOADING (R153). -/
theorem access_loading {s : State} {p : Port} {x : Access} {a : Byte} (mine : Target → Bool)
    (value : Target → State → Byte) (effect : Target → State → State) (hr : s.ready = false)
    (ht : s.transfer p = some (x.isWrite, a)) :
    s.access p x mine value effect = s.afterByte p x.isWrite a 0 := by
  simp [access, hr, ht]

/-- Everything an access can do. -/
theorem access_cases (s : State) (p : Port) (x : Access) (mine : Target → Bool)
    (value : Target → State → Byte) (effect : Target → State → State) :
    s.access p x mine value effect = s ∨
      ∃ a, s.transfer p = some (x.isWrite, a) ∧
        ((s.ready = false ∧ s.access p x mine value effect = s.afterByte p x.isWrite a 0) ∨
          (s.ready = true ∧ mine (s.target p a) = true ∧
            s.access p x mine value effect =
              ((effect (s.target p a) s).afterData p a).afterByte p x.isWrite a (value (s.target p a) s))) := by
  unfold access
  split
  · exact .inl rfl
  · next w a ht =>
    by_cases hw : w = x.isWrite
    · subst hw
      by_cases hr : s.ready = true
      · by_cases hm : mine (s.target p a) = true
        · exact .inr ⟨a, ht, .inr ⟨hr, hm, by simp [hr, hm]⟩⟩
        · exact .inl (by simp [hr, hm])
      · have hr : s.ready = false := by simpa using hr
        exact .inr ⟨a, ht, .inl ⟨hr, by simp [hr]⟩⟩
    · exact .inl (by simp [hw])

theorem writeAccess_mine {s : State} {p : Port} {v a : Byte} {mine : Target → Bool} {effect : Target → State → State}
    (h : s.Stands p true a) (hm : mine (s.target p a) = true) :
    (s.writeAccess p v mine effect).finish = .next ((effect (s.target p a) s).accessDone p true a 0) := by
  rw [writeAccess, access_mine (x := .write v) h hm]; rfl

theorem readAccess_mine {s : State} {p : Port} {a : Byte} {mine : Target → Bool}
    (h : s.Stands p false a) (hm : mine (s.target p a) = true) :
    (s.readAccess p mine).finish =
      .next ((readEffect p (s.target p a) s).accessDone p false a (readValue p (s.target p a) s)) := by
  rw [readAccess, access_mine (x := .read) h hm]; rfl

@[simp] theorem afterData_not_data (s : State) (p : Port) {a : Byte} (h : a ≠ 0x13) : s.afterData p a = s := if_neg h

/-- The transport after one access (R141). -/
theorem afterByte_transfer (s : State) (p : Port) (w : Bool) (a r : Byte) {b : Byte} (h : s.transfer p = some (w, b)) :
    (s.afterByte p w a r).transfer p = some (w, advanceAddress a) := by
  cases p
  · rfl
  · rfl
  · simp only [transfer, afterByte] at *
    split at h <;> simp_all

theorem afterByte_transfer_ne (s : State) {p q : Port} (w : Bool) (a r : Byte) (h : q ≠ p) :
    (s.afterByte p w a r).transfer q = s.transfer q := by
  cases p <;> cases q <;> first | rfl | exact absurd rfl h

theorem target_cmd (s : State) (p : Port) : s.target p 0x08 = .page .cmd := rfl

/-! ### The command slot -/

theorem issue_busy {s : State} {p : Port} (code : Byte) (owner : State → Answer) (h : (s.command p).inProgress = true) :
    s.issue p code owner = s.modPort p fun c => { c with cmdOverrun := true } := by simp [issue, h]

theorem issue_idle {s : State} {p : Port} (code : Byte) (owner : State → Answer) (h : (s.command p).inProgress = false) :
    s.issue p code owner =
      (owner (s.modCommand p fun c => { c with code := code })).state.modCommand p
        (·.give (owner (s.modCommand p fun c => { c with code := code })).result
          (owner (s.modCommand p fun c => { c with code := code })).detail) := by simp [issue, h]

/-- A write of CMD that is taken: the owner's answer, given on the state with the code in CMD. -/
theorem cmdWrite_taken {s : State} {p : Port} (code : Byte) (owner : State → Answer) (h : s.CanCommand p) :
    (s.cmdWrite p code owner).finish =
      .next (((owner (s.modCommand p fun c => { c with code := code })).state.modCommand p
        (·.give (owner (s.modCommand p fun c => { c with code := code })).result
          (owner (s.modCommand p fun c => { c with code := code })).detail)).accessDone p true 0x08 0) := by
  rw [cmdWrite, writeAccess_mine h.1 (by rw [target_cmd]; rfl), issue_idle _ _ h.2]

/-- A write of CMD while the slot is IN_PROGRESS (R148). -/
theorem cmdWrite_busy {s : State} {p : Port} (code : Byte) (owner : State → Answer) (h : s.Stands p true 0x08)
    (hb : (s.command p).inProgress = true) :
    (s.cmdWrite p code owner).finish =
      .next ((s.modPort p fun c => { c with cmdOverrun := true }).accessDone p true 0x08 0) := by
  rw [cmdWrite, writeAccess_mine h (by rw [target_cmd]; rfl), issue_busy _ _ hb]

/-- A command whose owner changes nothing. -/
theorem cmdWrite_unchanged {s : State} {p : Port} {code : Byte} {owner : State → Answer} {r : Result} {d : Byte}
    (h : s.CanCommand p)
    (ho : owner (s.modCommand p fun c => { c with code := code }) =
      ⟨s.modCommand p fun c => { c with code := code }, r, d⟩) :
    (s.cmdWrite p code owner).finish = .next (s.commandDone p code r d) := by
  rw [cmdWrite_taken _ _ h, ho]
  simp only [commandDone, modCommand_modCommand]
  rfl

/-- A command whose owner changes the state by an update that does not touch the command slot. -/
theorem cmdWrite_changed {s u : State} {p : Port} {code : Byte} {owner : State → Answer} {r : Result} {d : Byte}
    (h : s.CanCommand p)
    (ho : owner (s.modCommand p fun c => { c with code := code }) = ⟨u.modCommand p fun c => { c with code := code }, r, d⟩) :
    (s.cmdWrite p code owner).finish = .next (u.commandDone p code r d) := by
  rw [cmdWrite_taken _ _ h, ho]
  simp only [commandDone, modCommand_modCommand]
  rfl

theorem slotOf_of_names {arg : Byte} {i : Fin 16} (h : arg.toNat = i.val) : slotOf arg = some i := by
  simp [slotOf, h]

theorem slotOf_none {arg : Byte} (h : 16 ≤ arg.toNat) : slotOf arg = none := by
  simp [slotOf]; omega

theorem windowOf_of_names {arg : Byte} {w : Fin 4} (h : arg.toNat = w.val) : windowOf arg = some w := by
  simp [windowOf, h]

theorem windowOf_none {arg : Byte} (h : 4 ≤ arg.toNat) : windowOf arg = none := by
  simp [windowOf]; omega

/-- The slot check passes (R147, step 2). -/
theorem withSlot_names {s : State} {p : Port} {i : Fin 16} (next : Fin 16 → Answer) (h : s.NamesSlot p i) :
    s.withSlot p next = next i := by
  simp [withSlot, slotOf_of_names h]

theorem withSlot_refused {s : State} {p : Port} (next : Fin 16 → Answer) (h : 16 ≤ (s.command p).arg0.toNat) :
    s.withSlot p next = ⟨s, .badArg, 0xF0⟩ := by
  simp [withSlot, slotOf_none h, badIndex]

/-- A command with an IN_PROGRESS slot completes (R149). -/
theorem complete_in_progress {s : State} {p : Port} {code : Byte} (r : Result) (d : Byte)
    (hp : (s.command p).inProgress = true) (hc : (s.command p).code = code) :
    s.complete p code r d = (s.modCommand p (·.give r d)).raise .cmdDone p := by simp [complete, hp, hc]

theorem complete_detached {s : State} {p : Port} {code : Byte} (r : Result) (d : Byte)
    (h : (s.command p).inProgress = false ∨ (s.command p).code ≠ code) : s.complete p code r d = s := by
  rcases h with h | h <;> simp [complete, h]

end Sys2Proof.Machine.State
end

