-- ==== Sys2Proof/Laws/Captures.lean ====
section
/-! SUPPORT. What a capture request does in each of its three cases (R123), and what reclaim leaves (R132). -/

namespace Sys2Proof.Machine

/-- A saturating byte count, with its highest value written out. -/
theorem saturate_byte (x : Byte) : saturate x = if x = 0xFF then 0xFF else x + 1 := by
  have : BitVec.allOnes 8 = (0xFF : Byte) := by decide
  unfold saturate; rw [this]; split <;> simp_all

/-- A saturating 16-bit count, with its highest value written out. -/
theorem saturate_half (x : Half) : saturate x = if x = 0xFFFF then 0xFFFF else x + 1 := by
  have : BitVec.allOnes 16 = (0xFFFF : Half) := by decide
  unfold saturate; rw [this]; split <;> simp_all

@[simp] theorem PortContext.append_unread (c : PortContext) :
    c.append.unread = if c.cursor.isSome then c.unread + 1 else 0 := by
  cases h : c.cursor <;> simp [PortContext.append, PortContext.unread, h]

namespace State

/-- The model's test for a subscriber, and the statement's. -/
theorem subscribed_iff (s : State) : s.subscribed = true ↔ s.HasSubscriber := by
  have : s.HasSubscriber ↔ ∃ p, (s.ports.get p).cursor.isSome = true := by
    simp [HasSubscriber, port_def, Option.isSome_iff_ne_none]
  rw [this, subscribed]
  constructor
  · intro h
    simp only [Bool.or_eq_true] at h
    rcases h with (h | h) | h
    · exact ⟨.a, h⟩
    · exact ⟨.b, h⟩
    · exact ⟨.c, h⟩
  · rintro ⟨p, h⟩
    cases p <;> simp_all [PerPort.get]

theorem not_subscribed_iff (s : State) : s.subscribed = false ↔ ¬s.HasSubscriber := by
  rw [← subscribed_iff]; simp

/-- A change of one port's context that keeps its cursor keeps the subscriptions. -/
theorem hasSubscriber_modCommand (s : State) (p : Port) (f : CommandSlot → CommandSlot) :
    (s.modCommand p f).HasSubscriber ↔ s.HasSubscriber := by
  rw [← subscribed_iff, ← subscribed_iff]; cases p <;> rfl

/-- With no subscriber a request is dropped. -/
theorem takeCapture_dropped {s : State} (x : Source) (h : ¬s.HasSubscriber) : s.takeCapture x = s := by
  simp [takeCapture, captureFate, (not_subscribed_iff s).mpr h]

/-- With a full ring a request is lost. -/
theorem takeCapture_lost {s : State} (x : Source) (h : s.HasSubscriber) (hr : 8 ≤ s.capture.ring.length) :
    s.takeCapture x = s.captureLostOnce := by
  simp only [takeCapture, captureFate, (subscribed_iff s).mpr h, Config.ringDepth, ge_iff_le, hr, captureLostOnce]
  simp only [if_true, Bool.not_true, Bool.false_eq_true, if_false]
  have e : (fun c : PortContext => if c.cursor.isSome = true then c.raise .captureLost else c) =
      fun c => { c with events := if c.cursor = none then c.events else c.events ||| 0x02 } := by
    funext c; cases hc : c.cursor <;> cases c <;> simp_all [PortContext.raise, Event.mask]
  rw [e, saturate_byte]

/-- With room a request is recorded. -/
theorem takeCapture_recorded {s : State} (x : Source) (h : s.HasSubscriber) (hr : s.capture.ring.length < 8) :
    s.takeCapture x = s.captureRecordedOnce x := by
  have hr' : ¬8 ≤ s.capture.ring.length := by omega
  simp only [takeCapture, captureFate, (subscribed_iff s).mpr h, Config.ringDepth, ge_iff_le, hr', captureRecordedOnce]
  rfl

/-- Everything a capture request can do. -/
theorem takeCapture_cases (s : State) (x : Source) :
    (¬s.HasSubscriber ∧ s.takeCapture x = s) ∨
      (s.HasSubscriber ∧ 8 ≤ s.capture.ring.length ∧ s.takeCapture x = s.captureLostOnce) ∨
      (s.HasSubscriber ∧ s.capture.ring.length < 8 ∧ s.takeCapture x = s.captureRecordedOnce x) := by
  by_cases h : s.HasSubscriber
  · by_cases hr : 8 ≤ s.capture.ring.length
    · exact .inr (.inl ⟨h, hr, takeCapture_lost x h hr⟩)
    · exact .inr (.inr ⟨h, by omega, takeCapture_recorded x h (by omega)⟩)
  · exact .inl ⟨h, takeCapture_dropped x h⟩

/-- A capture request leaves every part but the ports' flags and cursors and the capture unit. -/
theorem takeCapture_frame (s : State) (x : Source) :
    (s.takeCapture x).slots = s.slots ∧ (s.takeCapture x).sched = s.sched ∧ (s.takeCapture x).config = s.config ∧
      (s.takeCapture x).queue = s.queue ∧ (s.takeCapture x).out = s.out ∧ (s.takeCapture x).engine = s.engine ∧
      (s.takeCapture x).handed = s.handed ∧ (s.takeCapture x).store = s.store ∧ (s.takeCapture x).roles = s.roles ∧
      (s.takeCapture x).ready = s.ready ∧ (s.takeCapture x).phase = s.phase ∧
      (s.takeCapture x).pending = s.pending ∧ (s.takeCapture x).pins = s.pins ∧ (s.takeCapture x).spiA = s.spiA ∧
      (s.takeCapture x).spiB = s.spiB ∧ (s.takeCapture x).i2c = s.i2c ∧
      (∀ p w, (s.takeCapture x).window p w = s.window p w) ∧ ∀ p, (s.takeCapture x).command p = s.command p := by
  rcases takeCapture_cases s x with ⟨_, e⟩ | ⟨_, _, e⟩ | ⟨_, _, e⟩ <;> rw [e] <;>
    refine ⟨rfl, rfl, rfl, rfl, rfl, rfl, rfl, rfl, rfl, rfl, rfl, rfl, rfl, rfl, rfl, rfl, ?_, ?_⟩ <;>
    intro p <;> cases p <;> first | rfl | exact fun _ => rfl

/-- The unread records of each port are no more than the longest run. -/
theorem unread_le_mostUnread (s : State) (p : Port) : (s.port p).unread ≤ s.mostUnread := by
  cases p <;> simp [mostUnread, State.port, PerPort.get]

/-- Some port reads the whole of the longest run. -/
theorem mostUnread_attained (s : State) : ∃ p, (s.port p).unread = s.mostUnread := by
  simp only [mostUnread]
  rcases le_total s.ports.a.unread (max s.ports.b.unread s.ports.c.unread) with h | h
  · rcases le_total s.ports.b.unread s.ports.c.unread with k | k
    · exact ⟨.c, by rw [max_eq_right h, max_eq_right k]; rfl⟩
    · exact ⟨.b, by rw [max_eq_right h, max_eq_left k]; rfl⟩
  · exact ⟨.a, by rw [max_eq_left h]; rfl⟩

/-- Reclaim leaves no record that no port has unread, and none of a ring that is no longer than the longest run. -/
theorem reclaim_ring_length (s : State) :
    s.reclaim.capture.ring.length = min s.capture.ring.length s.mostUnread := by
  simp [reclaim]; omega

@[simp] theorem reclaim_port (s : State) (p : Port) : s.reclaim.port p = s.port p := rfl

@[simp] theorem reclaim_mostUnread (s : State) : s.reclaim.mostUnread = s.mostUnread := rfl

end State

end Sys2Proof.Machine
end

