-- ==== Sys2Proof/Laws/Owners.lean ====
section
/-! SUPPORT. What the operations of the claim table do: release, the former owner's part of a REVOKE, stages, commits. -/

namespace Sys2Proof.Machine

/-- A release takes the owner and, under policy SAFE, loads the safe output (R84). -/
theorem Slot.release_eq (x : Slot) :
    x.release =
      { x with
        owner := none
        output := if x.config.releaseSafe then { x.output with committed := x.config.safeOutput } else x.output } := by
  unfold Slot.release; cases x.config.releaseSafe <;> rfl

namespace State

/-- The former owner's part of a REVOKE: CLAIM_LOST, and its stage of the slot discarded (R86). -/
theorem claimLost_eq (s : State) (q : Port) (i : Fin 16) :
    s.claimLost q i = s.modPort q fun c =>
      { c with
        events := c.events ||| 0x10
        stageDiscarded := c.stageDiscarded || c.stage.any fun g => g.slot = i
        stage := c.stage.filter fun g => g.slot ≠ i } := by
  simp only [claimLost, raise, modPort_modPort]
  congr 1
  funext c
  cases hs : c.stage with
  | none => cases c; simp_all [PortContext.raise, Event.mask]
  | some g => by_cases hg : g.slot = i <;> cases c <;> simp_all [PortContext.raise, Event.mask, Option.filter]

/-- An update of one port's context and one of any port's command slot can be made in either order, if the first leaves
the command slot alone. -/
theorem modPort_modCommand (s : State) (p q : Port) (f : PortContext → PortContext) (g : CommandSlot → CommandSlot)
    (h : ∀ c k, f { c with command := k } = { f c with command := k }) (hc : ∀ c, (f c).command = c.command) :
    (s.modCommand p g).modPort q f = (s.modPort q f).modCommand p g := by
  have key : ∀ c : PortContext, f { c with command := g c.command } = { f c with command := g (f c).command } :=
    fun c => by rw [h, hc]
  cases p <;> cases q <;>
    first
    | rfl
    | (simp only [modCommand, modPort, PerPort.set, PerPort.get, State.port]; rw [key])

theorem modPorts_modCommand (s : State) (p : Port) (f : PortContext → PortContext) (g : CommandSlot → CommandSlot)
    (h : ∀ c k, f { c with command := k } = { f c with command := k }) (hc : ∀ c, (f c).command = c.command) :
    (s.modCommand p g).modPorts f = (s.modPorts f).modCommand p g := by
  have key : ∀ c : PortContext, f { c with command := g c.command } = { f c with command := g (f c).command } :=
    fun c => by rw [h, hc]
  cases p <;>
    (simp only [modCommand, modPort, modPorts, PerPort.set, PerPort.map, PerPort.get, State.port]; rw [key])

end State

end Sys2Proof.Machine
end

