-- ==== Sys2Proof/Laws/Cycle.lean ====
section
/-! SUPPORT. What the scheduler's operations do (02): the plan, a turn, a cycle's start. -/

namespace Sys2Proof.Machine.State

/-- The plan fixed at a cycle start is R27's table read with the cycle number as it stands. -/
theorem newPlan_eq_dueSlots (s : State) : s.newPlan = s.dueSlots s.sched.cycle := by
  simp only [newPlan, dueSlots, allSlots]
  congr 1; funext i
  simp only [Slot.planned]
  cases (s.slot i).health.state <;> simp

/-- A planned slot is ACTIVE, SUSPECT or PROBING. -/
theorem health_of_dueSlots {s : State} {c : Half} {j : Fin 16} (h : j ∈ s.dueSlots c) :
    (s.slot j).health.state = .active ∨ (s.slot j).health.state = .suspect ∨ (s.slot j).health.state = .probing := by
  simp [dueSlots] at h
  tauto

/-- The turn of an entry whose slot is to be served (R28). -/
theorem planTurn_served {s : State} {j : Fin 16} {rest : List (Fin 16)}
    (h : (s.slot j).health.state = .active ∨ (s.slot j).health.state = .suspect ∨ (s.slot j).health.state = .probing) :
    s.planTurn (j :: rest) =
      some ((s.modSched fun c => { c with plan := rest }).hand (kindFor (s.slot j).health.state) j) := by
  rcases h with h | h | h <;> simp [planTurn, h, HealthState.turn, kindFor]

/-- The turn of an entry whose slot is skipped (R28). -/
theorem planTurn_skipped {s : State} {j : Fin 16} {rest : List (Fin 16)}
    (h : (s.slot j).health.state = .disabled ∨ (s.slot j).health.state = .backoff ∨
      (s.slot j).health.state = .lockedOut) : s.planTurn (j :: rest) = s.planTurn rest := by
  rcases h with h | h | h <;> simp [planTurn, h, HealthState.turn]

/-- A turn of the plan serves one entry, the first whose slot is not skipped, or finds none left. -/
theorem planTurn_cases (s : State) (plan : List (Fin 16)) :
    s.planTurn plan = none ∨
      ∃ k j rest, j ∈ plan ∧ (s.slot j).health.state.turn = some k ∧
        s.planTurn plan = some ((s.modSched fun c => { c with plan := rest }).hand k j) := by
  induction plan with
  | nil => exact .inl rfl
  | cons i rest ih =>
    simp only [planTurn]
    cases hk : (s.slot i).health.state.turn with
    | some k => exact .inr ⟨k, i, rest, List.mem_cons_self, hk, rfl⟩
    | none =>
      rcases ih with h | ⟨k, j, r, hj, ht, h⟩
      · exact .inl h
      · exact .inr ⟨k, j, r, List.mem_cons_of_mem _ hj, ht, h⟩

/-- A request handed over while no exchange is in flight (R4). -/
theorem hand_eq_handedOver {s : State} (k : Kind) (i : Fin 16)
    (h : s.engine = .ready ∨ ∃ r g, s.engine = .quiet r g) : s.hand k i = s.handedOver k i := by
  rcases h with h | ⟨r, g, h⟩ <;> simp [hand, handedOver, beginExchange, h]

/-- A request handed over changes the engine and its pending request, and nothing else (R4). -/
theorem hand_frame (s : State) (k : Kind) (i : Fin 16) :
    ∃ engine handed, s.hand k i = { s with engine := engine, handed := handed } := by
  unfold hand
  split
  · exact ⟨_, _, rfl⟩
  all_goals exact ⟨s.engine, _, rfl⟩

/-- With no TIMER capture due, a cycle's start fixes the plan and sets the scheduler's counts (R27). -/
theorem beginCycle_eq {s : State} {plan : List (Fin 16)} (h : s.config.timerDivider = 0)
    (hp : s.dueSlots (s.sched.cycle + 1) = plan) : s.beginCycle = s.cycleStarted plan := by
  have e : (s.modSched fun c => { c with cycle := c.cycle + 1 }).timerCapture =
      s.modSched fun c => { c with cycle := c.cycle + 1 } := by simp [timerCapture, h]
  have ep : (s.modSched fun c => { c with cycle := c.cycle + 1 }).newPlan = plan := by
    rw [newPlan_eq_dueSlots]; exact hp
  unfold beginCycle
  rw [e]
  simp only [modSched_modSched, ep]
  rfl

/-- The next turn when the plan has an entry left to serve. -/
theorem nextTurn_of_plan {s t : State} (h : s.planTurn s.sched.plan = some t) : s.nextTurn = t := by
  simp [nextTurn, turns, h]

/-- The next turn when the plan is over and the queue's head may be taken. -/
theorem nextTurn_of_queue {s t : State} (h : s.planTurn s.sched.plan = none) (hq : s.acyclicTurn = some t) :
    s.nextTurn = t := by
  simp [nextTurn, turns, h, hq]

/-- A change of every slot is that change, with SLOT_CHANGE in every port or without it (R40). -/
theorem changeSlots_cases (s : State) (f : Slot → Slot) :
    s.changeSlots f = s.modSlots f ∨ s.changeSlots f = (s.modSlots f).raiseAll .slotChange := by
  simp only [changeSlots]
  split
  · exact .inl (by with_reducible rfl)
  · exact .inr (by with_reducible rfl)

theorem endCycle_deferred (s : State) : s.endCycle.sched.deferred = s.sched.deferred := by
  simp only [endCycle]
  rcases changeSlots_cases s (·.cycleEnd s.config.staleLimit) with h | h
  · simp only [h]; simp
  · simp only [h]; simp

/-- The next turn when both parts are over and no start is deferred: the cycle ends. -/
theorem nextTurn_of_end {s : State} (h : s.planTurn s.sched.plan = none) (hq : s.acyclicTurn = none)
    (hd : s.sched.deferred = false) : s.nextTurn = s.endCycle := by
  simp [nextTurn, turns, h, hq, endCycle_deferred, hd]

/-- A cycle start with a plan that is not empty hands its first request over. -/
theorem startCycle_eq {s : State} {j : Fin 16} {rest : List (Fin 16)} (h : s.config.timerDivider = 0)
    (hp : s.dueSlots (s.sched.cycle + 1) = j :: rest) (he : s.engine = .ready ∨ ∃ r g, s.engine = .quiet r g) :
    s.startCycle = (s.cycleStarted rest).handedOver (kindFor (s.slot j).health.state) j := by
  have hj : (s.slot j).health.state = .active ∨ (s.slot j).health.state = .suspect ∨
      (s.slot j).health.state = .probing := health_of_dueSlots (c := s.sched.cycle + 1) (by rw [hp]; simp)
  unfold startCycle
  rw [beginCycle_eq h hp]
  refine nextTurn_of_plan ?_
  have ht : (s.cycleStarted (j :: rest)).planTurn (s.cycleStarted (j :: rest)).sched.plan = _ := planTurn_served hj
  rw [ht]
  exact congrArg some (hand_eq_handedOver (s := s.cycleStarted rest) _ _ he)

/-- A change of one slot is that change, with SLOT_CHANGE in every port or without it (R40). -/
theorem changeSlot_cases (s : State) (i : Fin 16) (f : Slot → Slot) :
    ((f (s.slot i)).health.state = (s.slot i).health.state ∧ s.changeSlot i f = s.modSlot i f) ∨
      ((f (s.slot i)).health.state ≠ (s.slot i).health.state ∧
        s.changeSlot i f = (s.modSlot i f).raiseAll .slotChange) := by
  unfold changeSlot
  simp only [modSlot_slot_self]
  by_cases h : (f (s.slot i)).health.state = (s.slot i).health.state
  · exact .inl ⟨h, by simp [h]⟩
  · exact .inr ⟨h, by simp [h]⟩

/-- The end of a cycle as one update of the slots, the flags, the scheduler and the toggle phase (R32). -/
theorem endCycle_eq (s : State) :
    ∃ ports, s.endCycle =
      { s.modSlots (·.cycleEnd s.config.staleLimit) with
        ports := ports
        sched := { s.sched with inCycle := false, plan := [] }
        phase := !s.phase } ∧ (ports = s.ports ∨ ports = s.ports.map (·.raise .slotChange)) := by
  simp only [endCycle]
  rcases changeSlots_cases s (·.cycleEnd s.config.staleLimit) with h | h
  · simp only [h]
    refine ⟨s.ports, ?_, .inl rfl⟩
    simp only [modSched, modSlots]
  · simp only [h]
    refine ⟨s.ports.map (·.raise .slotChange), ?_, .inr rfl⟩
    simp only [modSched, modSlots, raiseAll, modPorts]

end Sys2Proof.Machine.State
end

