-- ==== Sys2Proof/Laws/Turns.lean ====
section
/-! SUPPORT. The scheduler's turns and cycle starts are the ones the words of Safety.lean tell (02): each word holds of exactly
one state. -/

namespace Sys2Proof.Machine.State

/-- A capture request gives the state takeCapture answers, and no other. -/
theorem captureGives_iff (s : State) (x : Source) (t : State) : s.CaptureGives x t ↔ t = s.takeCapture x := by
  unfold CaptureGives
  rcases takeCapture_cases s x with ⟨h, e⟩ | ⟨h, hr, e⟩ | ⟨h, hr, e⟩
  · simp [h, e]
  · have : ¬s.capture.ring.length < 8 := by omega
    simp [h, hr, this, e]
  · have : ¬8 ≤ s.capture.ring.length := by omega
    simp [h, hr, this, e]

/-- A cycle begins with the state beginCycle answers, and no other. -/
theorem cycleBegins_iff (s t : State) : s.CycleBegins t ↔ t = s.beginCycle := by
  have hb : s.beginCycle = ((s.modSched fun c => { c with cycle := c.cycle + 1 }).timerCapture).planFixed := by
    simp only [beginCycle, planFixed, newPlan_eq_dueSlots]
  rw [hb]
  constructor
  · rintro ⟨u, v, rfl, rfl, h0, h1⟩
    congr 1
    unfold timerCapture
    split
    · next h => exact (captureGives_iff _ _ _).mp (h1 h.1 h.2)
    · next h => exact h0 (by by_cases hd : s.config.timerDivider = 0 <;> simp_all)
  · rintro rfl
    refine ⟨_, _, rfl, rfl, fun h => ?_, fun h1 h2 => ?_⟩
    · unfold timerCapture
      rw [if_neg]
      rintro ⟨h1, h2⟩
      rcases h with h | h
      · exact h1 h
      · exact h h2
    · rw [captureGives_iff]
      unfold timerCapture
      rw [if_pos ⟨h1, h2⟩]

theorem turn_of_served {s : State} {i : Fin 16} (h : s.Served i) :
    (s.slot i).health.state.turn = some (kindFor (s.slot i).health.state) := by
  rcases h with h | h | h <;> simp [h, HealthState.turn, kindFor]

theorem turn_of_not_served {s : State} {i : Fin 16} (h : ¬s.Served i) : (s.slot i).health.state.turn = none := by
  unfold Served at h
  cases e : (s.slot i).health.state <;> simp_all [HealthState.turn]

/-- A request handed over, whatever the engine does (R4). -/
theorem hand_eq (s : State) (k : Kind) (i : Fin 16) : s.hand k i = s.handedOver k i := by
  cases h : s.engine <;> simp [hand, handedOver, beginExchange, h]

/-- The planned part is over exactly when no entry left is served. -/
theorem planTurn_eq_none_iff (s : State) (plan : List (Fin 16)) :
    s.planTurn plan = none ↔ ∀ i ∈ plan, ¬s.Served i := by
  induction plan with
  | nil => simp [planTurn]
  | cons i rest ih =>
    by_cases h : s.Served i
    · simp [planTurn, turn_of_served h, h]
    · simp [planTurn, turn_of_not_served h, ih, h]

/-- The first entry whose slot is served gets the turn. -/
theorem planTurn_first {s : State} {skipped rest : List (Fin 16)} {j : Fin 16} (hs : ∀ i ∈ skipped, ¬s.Served i)
    (hj : s.Served j) :
    s.planTurn (skipped ++ j :: rest) =
      some ((s.modSched fun c => { c with plan := rest }).handedOver (kindFor (s.slot j).health.state) j) := by
  induction skipped with
  | nil => simp only [List.nil_append, planTurn, turn_of_served hj, hand_eq]
  | cons i l ih =>
    rw [List.cons_append, planTurn, turn_of_not_served (hs i List.mem_cons_self)]
    exact ih fun k hk => hs k (List.mem_cons_of_mem _ hk)

/-- A plan with an entry that is served splits at the first of them. -/
theorem plan_split {s : State} {plan : List (Fin 16)} (h : ¬∀ i ∈ plan, ¬s.Served i) :
    ∃ skipped j rest, plan = skipped ++ j :: rest ∧ (∀ i ∈ skipped, ¬s.Served i) ∧ s.Served j := by
  induction plan with
  | nil => simp at h
  | cons i l ih =>
    by_cases hi : s.Served i
    · exact ⟨[], i, l, rfl, by simp, hi⟩
    · have : ¬∀ k ∈ l, ¬s.Served k := fun hl => h fun k hk => by
        rcases List.mem_cons.mp hk with rfl | hk
        · exact hi
        · exact hl k hk
      obtain ⟨sk, j, rest, rfl, h1, h2⟩ := ih this
      exact ⟨i :: sk, j, rest, rfl, fun k hk => by
        rcases List.mem_cons.mp hk with rfl | hk
        · exact hi
        · exact h1 k hk, h2⟩

/-- The queue's head taken, where the allowance copy leaves room (R30, R105). -/
theorem acyclicTurn_taken {s : State} {r : Request} {rest : List Request} (hq : s.queue = r :: rest)
    (ha : s.sched.acyclic < s.sched.allowance) : s.acyclicTurn = some (s.headTaken r rest) := by
  simp only [acyclicTurn, hq, ha, if_true, hand_eq]
  rfl

theorem acyclicTurn_over {s : State} (h : s.queue = [] ∨ s.sched.allowance ≤ s.sched.acyclic) :
    s.acyclicTurn = none := by
  unfold acyclicTurn
  rcases h with h | h
  · simp [h]
  · split
    · rfl
    · rw [if_neg (by omega)]

/-- A slot's health state changes at a cycle end exactly when its backoff runs out (R52). -/
theorem health_cycleEnd_state_ne_iff (h : Health) :
    h.cycleEnd.state ≠ h.state ↔ h.state = .backoff ∧ h.backoff ≤ 1 := by
  unfold Health.cycleEnd
  by_cases hb : h.state = .backoff
  · by_cases h1 : h.backoff ≤ 1 <;> simp [hb, h1]
  · simp [hb]

theorem modPorts_events_zero (s : State) : (s.modPorts fun c => { c with events := c.events ||| 0 }) = s := by
  simp [modPorts, PerPort.map]

/-- A change of every slot, with SLOT_CHANGE in every port where a health state changes (R40). -/
theorem changeSlots_eq (s : State) (f : Slot → Slot) :
    s.changeSlots f = (s.modSlots f).modPorts fun c =>
      { c with events := c.events |||
        if ∃ i, (f (s.slot i)).health.state ≠ (s.slot i).health.state then 0x08 else 0 } := by
  simp only [changeSlots, allSlots, List.all_eq_true, List.mem_finRange, forall_const, decide_eq_true_eq,
    modSlots_slot]
  by_cases h : ∃ i, (f (s.slot i)).health.state ≠ (s.slot i).health.state
  · have h' : ¬∀ i, (f (s.slot i)).health.state = (s.slot i).health.state := by simpa using h
    rw [if_neg h', if_pos h]
    rfl
  · have h' : ∀ i, (f (s.slot i)).health.state = (s.slot i).health.state := by simpa using h
    rw [if_pos h', if_neg h, modPorts_events_zero]

/-- The end of a cycle (R32). -/
theorem endCycle_eq_cycleEnded (s : State) : s.endCycle = s.cycleEnded := by
  simp only [endCycle, cycleEnded, backoffFlag, changeSlots_eq]
  have e : (∃ i, (Slot.cycleEnd s.config.staleLimit (s.slot i)).health.state ≠ (s.slot i).health.state) ↔
      ∃ i : Fin 16, (s.slot i).health.state = .backoff ∧ (s.slot i).health.backoff ≤ 1 :=
    exists_congr fun i => health_cycleEnd_state_ne_iff _
  simp only [e]
  rfl

/-- One turn told by cases is the turn that `turns` takes, where the deferred start is told by what `turns` does next. -/
theorem turnGivesBy_iff {start : State → State → Prop} {n : Nat}
    (s t : State)
    (hn : s.sched.deferred = true → ∀ w, start (s.cycleEnded.modSched fun c => { c with deferred := false }) w ↔
      w = turns n (s.cycleEnded.modSched fun c => { c with deferred := false }).beginCycle) :
    s.TurnGivesBy start t ↔ t = s.turns (n + 1) := by
  unfold TurnGivesBy turns
  by_cases hp : ∀ i ∈ s.sched.plan, ¬s.Served i
  · have h1 : ∀ skipped j rest, s.sched.plan = skipped ++ j :: rest → (∀ i ∈ skipped, ¬s.Served i) → s.Served j →
        t = (s.modSched fun c => { c with plan := rest }).handedOver (kindFor (s.slot j).health.state) j := by
      intro sk j rest e _ hj
      exact absurd hj (hp j (by rw [e]; simp))
    rw [(planTurn_eq_none_iff s _).mpr hp]
    rw [and_iff_right h1, imp_iff_right hp]
    by_cases hq : s.queue = [] ∨ s.sched.allowance ≤ s.sched.acyclic
    · have h2 : ∀ r rest, s.queue = r :: rest → s.sched.acyclic < s.sched.allowance → t = s.headTaken r rest := by
        intro r rest e hlt
        rcases hq with h | h
        · rw [h] at e; cases e
        · omega
      rw [acyclicTurn_over hq]
      rw [and_iff_right h2, imp_iff_right hq]
      have hd : s.cycleEnded.sched.deferred = s.sched.deferred := rfl
      cases hdd : s.sched.deferred with
      | false => simp [hd, hdd, endCycle_eq_cycleEnded]
      | true => simp [hd, hdd, endCycle_eq_cycleEnded, hn hdd]
    · obtain ⟨hne, hlt⟩ := not_or.mp hq
      obtain ⟨r, rest, e⟩ := List.exists_cons_of_ne_nil hne
      have hlt' : s.sched.acyclic < s.sched.allowance := by omega
      rw [acyclicTurn_taken e hlt']
      simp only [hq, false_implies, and_true]
      constructor
      · exact fun h => h r rest e hlt'
      · rintro rfl r' rest' e' _
        rw [e] at e'; cases e'; rfl
  · obtain ⟨sk, j, rest, e, hs, hj⟩ := plan_split hp
    simp only [hp, false_implies, and_true]
    rw [e, planTurn_first hs hj]
    constructor
    · exact fun h => h sk j rest rfl hs hj
    · intro h sk' j' rest' e' hs' hj'
      have := planTurn_first (rest := rest') hs' hj'
      rw [← e', planTurn_first hs hj] at this
      simp only at h
      rw [h]
      exact Option.some.inj this

theorem cycleBegins_deferred {s v : State} (h : s.CycleBegins v) : v.sched.deferred = s.sched.deferred := by
  rw [cycleBegins_iff] at h
  subst h
  have h2 := (takeCapture_frame (s.modSched fun c => { c with cycle := c.cycle + 1 }) .timer).2.1
  simp only [beginCycle, timerCapture]
  split
  · have h3 := congrArg Scheduler.deferred h2
    exact h3
  · rfl

/-- The next turn gives the state nextTurn answers, and no other. -/
theorem turnGives_iff (s t : State) : s.TurnGives t ↔ t = s.nextTurn := by
  refine turnGivesBy_iff s t fun _ w => ?_
  constructor
  · rintro ⟨v, hv, hw⟩
    have hd := cycleBegins_deferred hv
    have := (turnGivesBy_iff (n := 0) v w fun h => by rw [hd] at h; cases h).mp hw
    rw [(cycleBegins_iff _ _).mp hv] at this
    exact this
  · rintro rfl
    refine ⟨_, (cycleBegins_iff _ _).mpr rfl, (turnGivesBy_iff (n := 0) _ _ fun h => ?_).mpr rfl⟩
    rw [cycleBegins_deferred ((cycleBegins_iff _ _).mpr rfl)] at h
    cases h

/-- A cycle start gives the state startCycle answers, and no other. -/
theorem cycleStarts_iff (s t : State) : s.CycleStarts t ↔ t = s.startCycle := by
  constructor
  · rintro ⟨v, hv, ht⟩
    rw [(cycleBegins_iff _ _).mp hv] at ht
    exact (turnGives_iff _ _).mp ht
  · rintro rfl
    exact ⟨_, (cycleBegins_iff _ _).mpr rfl, (turnGives_iff _ _).mpr rfl⟩

end Sys2Proof.Machine.State
end

