-- ==== Sys2Proof/Laws/CommandTurns.lean ====
section
/-! SUPPORT. A command slot's own update can be made before or after the scheduler's work: LINK_START and DISABLE take a turn
within a command (02, 8.7). -/

namespace Sys2Proof.Machine.State

theorem modSched_modCommand (s : State) (p : Port) (f : Scheduler → Scheduler) (g : CommandSlot → CommandSlot) :
    (s.modCommand p g).modSched f = (s.modSched f).modCommand p g := rfl

theorem modSlots_modCommand (s : State) (p : Port) (f : Slot → Slot) (g : CommandSlot → CommandSlot) :
    (s.modCommand p g).modSlots f = (s.modSlots f).modCommand p g := rfl

theorem handedOver_modCommand (s : State) (p : Port) (k : Kind) (i : Fin 16) (g : CommandSlot → CommandSlot) :
    (s.modCommand p g).handedOver k i = (s.handedOver k i).modCommand p g := by
  unfold handedOver
  by_cases h : s.engine = .ready
  · rw [if_pos h, if_pos (show (s.modCommand p g).engine = .ready from h)]; rfl
  · rw [if_neg h, if_neg (show ¬(s.modCommand p g).engine = .ready from h)]; rfl

theorem headTaken_modCommand (s : State) (p : Port) (r : Request) (rest : List Request)
    (g : CommandSlot → CommandSlot) :
    (s.modCommand p g).headTaken r rest = (s.headTaken r rest).modCommand p g := by
  unfold headTaken
  rw [← handedOver_modCommand, ← modSched_modCommand]
  congr 2
  exact modPort_modCommand { s with queue := rest, out := some r } p r.port _ g (fun _ _ => rfl) fun _ => rfl

theorem modPorts_phase_modCommand (s : State) (p : Port) (b : Bool) (f : PortContext → PortContext)
    (g : CommandSlot → CommandSlot) (h : ∀ c k, f { c with command := k } = { f c with command := k })
    (hc : ∀ c, (f c).command = c.command) :
    { (s.modCommand p g).modPorts f with phase := b } = ({ s.modPorts f with phase := b } : State).modCommand p g := by
  have e := modPorts_modCommand s p f g h hc
  exact congrArg (fun t : State => { t with phase := b }) e

theorem cycleEnded_modCommand (s : State) (p : Port) (g : CommandSlot → CommandSlot) :
    (s.modCommand p g).cycleEnded = s.cycleEnded.modCommand p g := by
  have hm : (s.modCommand p g).backoffFlag = s.backoffFlag := by
    unfold backoffFlag; exact if_congr Iff.rfl rfl rfl
  unfold cycleEnded
  rw [hm, modSlots_modCommand, modSched_modCommand]
  exact modPorts_phase_modCommand ((s.modSlots (·.cycleEnd s.config.staleLimit)).modSched fun c =>
    { c with inCycle := false, plan := [] }) p (!s.phase) (fun c => { c with events := c.events ||| s.backoffFlag }) g
    (fun _ _ => rfl) fun _ => rfl

theorem takeCapture_modCommand (s : State) (p : Port) (x : Source) (g : CommandSlot → CommandSlot) :
    (s.modCommand p g).takeCapture x = (s.takeCapture x).modCommand p g := by
  rcases takeCapture_cases s x with ⟨h, e⟩ | ⟨h, hr, e⟩ | ⟨h, hr, e⟩
  · rw [e, takeCapture_dropped (s := s.modCommand p g) x (mt (hasSubscriber_modCommand s p g).mp h)]
  · rw [e, takeCapture_lost (s := s.modCommand p g) x ((hasSubscriber_modCommand s p g).mpr h) hr]
    cases p <;> rfl
  · rw [e, takeCapture_recorded (s := s.modCommand p g) x ((hasSubscriber_modCommand s p g).mpr h) hr]
    cases p <;> rfl

theorem beginCycle_modCommand (s : State) (p : Port) (g : CommandSlot → CommandSlot) :
    (s.modCommand p g).beginCycle = s.beginCycle.modCommand p g := by
  have h : ((s.modCommand p g).modSched fun c => { c with cycle := c.cycle + 1 }).timerCapture =
      ((s.modSched fun c => { c with cycle := c.cycle + 1 }).timerCapture).modCommand p g := by
    rw [modSched_modCommand]
    unfold timerCapture
    split
    · rw [takeCapture_modCommand]; rw [if_pos (by assumption)]
    · rw [if_neg (by assumption)]
  unfold beginCycle
  rw [h]
  rfl

theorem planTurn_modCommand (s : State) (p : Port) (plan : List (Fin 16)) (g : CommandSlot → CommandSlot) :
    (s.modCommand p g).planTurn plan = (s.planTurn plan).map fun t => t.modCommand p g := by
  induction plan with
  | nil => rfl
  | cons i rest ih =>
    simp only [planTurn, hand_eq, modSched_modCommand, handedOver_modCommand, ih]
    cases h : (s.slot i).health.state.turn <;> simp [modCommand, h]

theorem acyclicTurn_modCommand (s : State) (p : Port) (g : CommandSlot → CommandSlot) :
    (s.modCommand p g).acyclicTurn = s.acyclicTurn.map fun t => t.modCommand p g := by
  by_cases hq : s.queue = [] ∨ s.sched.allowance ≤ s.sched.acyclic
  · rw [acyclicTurn_over hq, acyclicTurn_over (s := s.modCommand p g) hq]; rfl
  · obtain ⟨hne, hlt⟩ := not_or.mp hq
    obtain ⟨r, rest, e⟩ := List.exists_cons_of_ne_nil hne
    rw [acyclicTurn_taken e (by omega),
      acyclicTurn_taken (s := s.modCommand p g) e (show s.sched.acyclic < s.sched.allowance by omega),
      headTaken_modCommand]
    rfl

theorem turns_modCommand (n : Nat) (s : State) (p : Port) (g : CommandSlot → CommandSlot) :
    turns n (s.modCommand p g) = (turns n s).modCommand p g := by
  induction n generalizing s with
  | zero => rfl
  | succ n ih =>
    unfold turns
    rw [show (s.modCommand p g).sched = s.sched from rfl, planTurn_modCommand, acyclicTurn_modCommand]
    cases s.planTurn s.sched.plan with
    | some t => rfl
    | none =>
      cases s.acyclicTurn with
      | some t => rfl
      | none =>
        simp only [Option.map_none, endCycle_eq_cycleEnded, cycleEnded_modCommand]
        by_cases hd : s.cycleEnded.sched.deferred = true
        · rw [if_pos hd, if_pos (show (s.cycleEnded.modCommand p g).sched.deferred = true from hd),
            modSched_modCommand, beginCycle_modCommand, ih]
        · rw [if_neg hd, if_neg (show ¬(s.cycleEnded.modCommand p g).sched.deferred = true from hd)]

/-- The next turn, and a port's command slot updated before or after it. -/
theorem nextTurn_modCommand (s : State) (p : Port) (g : CommandSlot → CommandSlot) :
    (s.modCommand p g).nextTurn = s.nextTurn.modCommand p g := turns_modCommand 2 s p g

/-- A cycle start, and a port's command slot updated before or after it. -/
theorem startCycle_modCommand (s : State) (p : Port) (g : CommandSlot → CommandSlot) :
    (s.modCommand p g).startCycle = s.startCycle.modCommand p g := by
  unfold startCycle
  rw [beginCycle_modCommand, nextTurn_modCommand]

end Sys2Proof.Machine.State
end

