-- ==== Sys2Proof/Laws/Windows.lean ====
section
/-! SUPPORT. What the operations of the window unit do (06): windows that end, records that leave the queue, triggers. -/

namespace Sys2Proof.Machine.State

/-- Two updates of one window are one. -/
@[simp] theorem modWindow_modWindow (s : State) (p : Port) (w : Fin 4) (f g : Window → Window) :
    (s.modWindow p w f).modWindow p w g = s.modWindow p w fun x => g (f x) := by
  simp [modWindow]

/-- A window set to FAILED, with its flag (R97, R98). -/
theorem failWindow_eq (s : State) (p : Port) (w : Fin 4) (c : Cause) (d : Byte) :
    s.failWindow p w c d =
      (s.modWindow p w fun x => { x with state := .failed, cause := c, detail := d }).modPort p fun y =>
        { y with events := y.events ||| 0x04 } := rfl

/-- A window set to DONE, with its flag (R97, R98). -/
theorem finishWindow_eq (s : State) (p : Port) (w : Fin 4) :
    s.finishWindow p w =
      (s.modWindow p w fun x => { x with state := .done, cause := .none, detail := 0 }).modPort p fun y =>
        { y with events := y.events ||| 0x04 } := rfl

theorem failWindow_window_self (s : State) (p : Port) (w : Fin 4) (c : Cause) (d : Byte) :
    (s.failWindow p w c d).window p w = { s.window p w with state := .failed, cause := c, detail := d } := by
  simp [failWindow, Window.fail]

theorem failWindow_window_ne (s : State) {p q : Port} {w k : Fin 4} (c : Cause) (d : Byte) (h : q = p → k ≠ w) :
    (s.failWindow p w c d).window q k = s.window q k := by
  simp [failWindow, modWindow_window_ne s _ h]

/-- The windows of several requests set to FAILED leave every part of the state but the ports as it is. -/
theorem foldl_failWindow_frame (l : List Request) (c : Cause) (s : State) :
    ∃ ports, l.foldl (fun t r => t.failWindow r.port r.window c 0) s = { s with ports := ports } := by
  induction l generalizing s with
  | nil => exact ⟨s.ports, rfl⟩
  | cons r rest ih =>
    obtain ⟨ports, h⟩ := ih (s.failWindow r.port r.window c 0)
    exact ⟨ports, by rw [List.foldl_cons, h]; rfl⟩

/-- A window none of the requests serves is left as it is. -/
theorem foldl_failWindow_window_ne {l : List Request} {q : Port} {k : Fin 4} (c : Cause) (s : State)
    (h : ∀ r ∈ l, r.port = q → r.window ≠ k) :
    (l.foldl (fun t r => t.failWindow r.port r.window c 0) s).window q k = s.window q k := by
  induction l generalizing s with
  | nil => rfl
  | cons r rest ih =>
    rw [List.foldl_cons, ih _ fun x hx => h x (List.mem_cons_of_mem _ hx)]
    exact failWindow_window_ne _ _ _ fun e => (h r List.mem_cons_self e.symm).symm

/-- A window that one of the requests serves ends FAILED. -/
theorem foldl_failWindow_window_mem {l : List Request} {q : Port} {k : Fin 4} (c : Cause) (s : State)
    (h : ∃ r ∈ l, r.port = q ∧ r.window = k) :
    (l.foldl (fun t r => t.failWindow r.port r.window c 0) s).window q k =
      { s.window q k with state := .failed, cause := c, detail := 0 } := by
  induction l generalizing s with
  | nil => obtain ⟨r, hr, _⟩ := h; cases hr
  | cons r rest ih =>
    rw [List.foldl_cons]
    by_cases hrest : ∃ x ∈ rest, x.port = q ∧ x.window = k
    · rw [ih _ hrest]
      by_cases hq : r.port = q ∧ r.window = k
      · obtain ⟨rfl, rfl⟩ := hq
        simp [failWindow_window_self]
      · rw [failWindow_window_ne _ _ _ fun e => fun ek => hq ⟨e.symm, ek.symm⟩]
    · have hq : r.port = q ∧ r.window = k := by
        obtain ⟨x, hx, hxq⟩ := h
        rcases List.mem_cons.mp hx with rfl | hx
        · exact hxq
        · exact absurd ⟨x, hx, hxq⟩ hrest
      obtain ⟨rfl, rfl⟩ := hq
      rw [foldl_failWindow_window_ne _ _ fun x hx e ek => hrest ⟨x, hx, e, ek⟩, failWindow_window_self]

/-- WINDOW_DONE is set in the port of each of the requests, and a flag that stands stays. -/
theorem foldl_failWindow_events (l : List Request) (q : Port) (c : Cause) (s : State) :
    ((l.foldl (fun t r => t.failWindow r.port r.window c 0) s).port q).events =
      (s.port q).events ||| if ∃ r ∈ l, r.port = q then 0x04 else 0 := by
  induction l generalizing s with
  | nil => simp
  | cons r rest ih =>
    have hp : ((s.failWindow r.port r.window c 0).port q).events =
        (s.port q).events ||| if r.port = q then 0x04 else 0 := by
      simp only [failWindow_eq, modPort_port, modWindow]
      by_cases h : q = r.port
      · subst h; simp
      · simp [h, Ne.symm h]
    rw [List.foldl_cons, ih, hp]
    by_cases h1 : r.port = q <;> by_cases h2 : ∃ x ∈ rest, x.port = q <;> simp [h1, h2, BitVec.or_assoc]

/-- What a removal of records leaves (R103, R110, R111). -/
theorem removeRequests_frame (s : State) (gone : Request → Bool) (c : Cause) :
    ∃ ports, s.removeRequests gone c = { s with ports := ports, queue := s.queue.filter fun r => !gone r } := by
  obtain ⟨ports, h⟩ := foldl_failWindow_frame (s.queue.filter gone) c
    { s with queue := s.queue.filter fun r => !gone r }
  exact ⟨ports, h⟩

theorem removeRequests_none {s : State} {gone : Request → Bool} (c : Cause) (h : ∀ r ∈ s.queue, gone r = false) :
    s.removeRequests gone c = s := by
  have h1 : s.queue.filter gone = [] := by
    rw [List.filter_eq_nil_iff]; intro r hr; simp [h r hr]
  have h2 : (s.queue.filter fun r => !gone r) = s.queue := by
    rw [List.filter_eq_self]; intro r hr; simp [h r hr]
  simp [removeRequests, h1, h2]

/-- A trigger of a busy window sets OVERRUN and does nothing else (R100, R101). -/
theorem writeTrigger_busy {s : State} {p : Port} {w : Fin 4} (h : (s.window p w).state.busy = true) :
    s.writeTrigger p w = s.modWindow p w fun y => { y with overrun := true } := by simp [writeTrigger, h]

theorem fetchTrigger_busy {s : State} {p : Port} {w : Fin 4} (h : (s.window p w).state.busy = true) :
    s.fetchTrigger p w = s.modWindow p w fun y => { y with overrun := true } := by simp [fetchTrigger, h]

/-- A trigger that has passed its own checks fails for the slot's health. -/
theorem triggerAccept_not_active {s : State} {p : Port} {w : Fin 4} (k : RequestKind)
    (h : (s.slot (s.window p w).slot).health.state.linked = false) :
    s.triggerAccept p w k = s.failWindow p w .notActive 0 := by simp [triggerAccept, h]

/-- A trigger that has passed its own checks fails for a full queue. -/
theorem triggerAccept_full {s : State} {p : Port} {w : Fin 4} (k : RequestKind)
    (h : (s.slot (s.window p w).slot).health.state.linked = true) (hq : 8 ≤ s.queue.length) :
    s.triggerAccept p w k = s.failWindow p w .queueFull 0 := by simp [triggerAccept, h, Config.queueDepth, hq]

/-- A trigger that has passed every check makes its request. -/
theorem triggerAccept_taken {s : State} {p : Port} {w : Fin 4} (k : RequestKind)
    (h : (s.slot (s.window p w).slot).health.state.linked = true) (hq : s.queue.length < 8) :
    s.triggerAccept p w k = s.enqueue p w k := by
  have : ¬8 ≤ s.queue.length := by omega
  simp [triggerAccept, h, Config.queueDepth, this]

end Sys2Proof.Machine.State
end

