-- ==== Sys2Proof/Laws/Reports.lean ====
section
/-! SUPPORT. Requests that are removed, reports that are decided and passed on, and the record out that ends: each operation is
what the words of Safety.lean tell (01, 02, 03, 06). -/

namespace Sys2Proof.Machine.State

/-- The windows of several requests set to FAILED leave each port its other fields. -/
theorem foldl_failWindow_port (l : List Request) (c : Cause) (s : State) (q : Port) :
    ∃ windows events, (l.foldl (fun t r => t.failWindow r.port r.window c 0) s).port q =
      { s.port q with windows := windows, events := events } := by
  induction l generalizing s with
  | nil => exact ⟨_, _, rfl⟩
  | cons r rest ih =>
    obtain ⟨w, e, h⟩ := ih (s.failWindow r.port r.window c 0)
    refine ⟨w, e, ?_⟩
    rw [List.foldl_cons, h]
    by_cases hq : q = r.port
    · subst hq; simp [failWindow, raise, modWindow, PortContext.raise]
    · simp [failWindow, raise, modWindow, modPort_port, hq]

/-- A removal of records leaves each port's context as the pointwise word tells it (R103, R110, R111). -/
theorem removeRequests_port (s : State) (gone : Request → Bool) (c : Cause) (q : Port) :
    (s.removeRequests gone c).port q = (s.requestsRemoved gone c).port q := by
  obtain ⟨w, e, h⟩ := foldl_failWindow_port (s.queue.filter gone) c
    { s with queue := s.queue.filter fun r => !gone r } q
  have hr : (s.requestsRemoved gone c).port q =
      { s.port q with
        windows := Vector.ofFn fun w : Fin 4 =>
          if s.queue.any fun r => gone r && r.port = q && r.window = w then
            { s.window q w with state := .failed, cause := c, detail := 0 }
          else s.window q w
        events := (s.port q).events ||| if s.queue.any fun r => gone r && r.port = q then 0x04 else 0 } := by
    cases q <;> rfl
  have he := foldl_failWindow_events (s.queue.filter gone) q c { s with queue := s.queue.filter fun r => !gone r }
  rw [h] at he
  rw [hr]
  refine h.trans ?_
  have hw : w = Vector.ofFn fun w : Fin 4 =>
      if s.queue.any fun r => gone r && r.port = q && r.window = w then
        { s.window q w with state := .failed, cause := c, detail := 0 }
      else s.window q w := by
    have key : ∀ k : Fin 4, w[k] = (if s.queue.any fun r => gone r && r.port = q && r.window = k then
        { s.window q k with state := .failed, cause := c, detail := 0 } else s.window q k) := by
      intro k
      have hk : ((s.queue.filter gone).foldl (fun (t : State) r => t.failWindow r.port r.window c 0)
          { s with queue := s.queue.filter fun r => !gone r }).window q k = w[k] := by
        unfold State.window; rw [h]
      rw [← hk]
      by_cases hx : ∃ r ∈ s.queue.filter gone, r.port = q ∧ r.window = k
      · have hb : (s.queue.any fun r => gone r && r.port = q && r.window = k) = true := by
          obtain ⟨r, hr, h1, h2⟩ := hx
          rw [List.any_eq_true]
          exact ⟨r, (List.mem_filter.mp hr).1, by simp [(List.mem_filter.mp hr).2, h1, h2]⟩
        rw [hb]
        exact foldl_failWindow_window_mem c _ hx
      · have hb : (s.queue.any fun r => gone r && r.port = q && r.window = k) = false := by
          rw [Bool.eq_false_iff]
          intro hc
          obtain ⟨r, hr, h1⟩ := List.any_eq_true.mp hc
          simp only [Bool.and_eq_true, decide_eq_true_eq] at h1
          exact hx ⟨r, List.mem_filter.mpr ⟨hr, h1.1.1⟩, h1.1.2, h1.2⟩
        rw [hb]
        exact foldl_failWindow_window_ne c _ fun r hr h1 h2 => hx ⟨r, hr, h1, h2⟩
    apply Vector.ext
    intro k hk
    have := key ⟨k, hk⟩
    simpa using this
  have hee : e = (s.port q).events ||| if s.queue.any fun r => gone r && r.port = q then 0x04 else 0 := by
    refine he.trans ?_
    congr 1
    have : (∃ r ∈ s.queue.filter gone, r.port = q) ↔
        (s.queue.any fun r => gone r && r.port = q) = true := by
      rw [List.any_eq_true]
      constructor
      · rintro ⟨r, hr, h1⟩
        exact ⟨r, (List.mem_filter.mp hr).1, by simp [(List.mem_filter.mp hr).2, h1]⟩
      · rintro ⟨r, hr, h1⟩
        simp only [Bool.and_eq_true, decide_eq_true_eq] at h1
        exact ⟨r, List.mem_filter.mpr ⟨hr, h1.1⟩, h1.2⟩
    by_cases hx : ∃ r ∈ s.queue.filter gone, r.port = q
    · rw [if_pos hx, if_pos (this.mp hx)]
    · rw [if_neg hx, if_neg (mt this.mpr hx)]
  rw [hw, hee]
  rfl

/-- A removal of records, as the pointwise word tells it (R103, R110, R111). -/
theorem removeRequests_eq (s : State) (gone : Request → Bool) (c : Cause) :
    s.removeRequests gone c = s.requestsRemoved gone c := by
  obtain ⟨ports, h⟩ := removeRequests_frame s gone c
  have hp : ports = (s.requestsRemoved gone c).ports := by
    apply PerPort.ext_get
    intro q
    have := removeRequests_port s gone c q
    rw [h] at this
    exact this
  rw [h, hp]
  rfl

theorem requestsRemoved_none {s : State} {gone : Request → Bool} (c : Cause) (h : ∀ r ∈ s.queue, gone r = false) :
    s.requestsRemoved gone c = s := by rw [← removeRequests_eq, removeRequests_none c h]

/-- A change of one slot, with SLOT_CHANGE in every port where its health state changes (R40). -/
theorem changeSlot_eq (s : State) (i : Fin 16) (f : Slot → Slot) :
    s.changeSlot i f = (s.modSlot i f).modPorts fun c =>
      { c with events := c.events |||
        if (f (s.slot i)).health.state = (s.slot i).health.state then 0 else 0x08 } := by
  rcases changeSlot_cases s i f with ⟨h, e⟩ | ⟨h, e⟩
  · rw [e, if_pos h, modPorts_events_zero]
  · rw [e, if_neg h]; rfl

/-- A report taken as evidence (R40, R41, R51). -/
theorem healthEvidence_eq (s : State) (i : Fin 16) (k : Kind) (d : Decision) :
    s.healthEvidence i k d =
      s.healthTaken i ((s.slot i).health.report (s.slot i).config s.config k d) := by
  simp only [healthEvidence, healthTaken]
  generalize (s.slot i).health.report (s.slot i).config s.config k d = h
  have hl : lossTo (s.slot i).health h = lossBy (s.slot i).health h := rfl
  cases hb : lossBy (s.slot i).health h with
  | true =>
    rw [hl, hb, if_pos rfl, if_pos rfl, slotLeft, removeRequests_eq, changeSlot_eq]
    congr 2
    simp only [modSlot, hl, hb, if_true, InputRecord.lose]
  | false =>
    rw [hl, hb, if_neg Bool.false_ne_true, if_neg Bool.false_ne_true, changeSlot_eq]
    congr 1
    simp only [modSlot, hl, hb, Bool.false_eq_true, if_false]

/-- The record out ends at its withdrawal or under the discard mark as R106's table gives. -/
theorem outEnds_dropOut (s : State) (c : Cause) : s.OutEnds c (s.dropOut c) := by
  intro r hr
  have hw : ({ s with out := none } : State).window r.port r.window = s.window r.port r.window := rfl
  refine ⟨fun h => ?_, fun h => ⟨fun hm => ?_, fun hm => ?_⟩⟩
  · simp only [dropOut, hr, hw, h]; rfl
  · simp only [dropOut, hr, hw, h, endCancelling, hm, Bool.false_eq_true, if_false]; rfl
  · simp only [dropOut, hr, hw, h, endCancelling, hm, if_true]
    simp only [outCleared, Window.enter]

/-- A pending request withdrawn (R25, R29, R106). -/
theorem withdrawnGives_withdraw {s : State} {h : Handed} (hh : s.handed = some h) (c : Cause) :
    s.WithdrawnGives h.kind c (s.withdraw c) := by
  unfold withdraw
  rw [hh]
  refine ⟨fun hk => ?_, fun hk => ?_⟩
  · rcases hk with hk | hk <;> simp only [hk]
  · rcases hk with hk | hk <;> simp only [hk] <;> exact outEnds_dropOut _ _

/-- A good cyclic reply at the process image (R63, R65, R120). -/
theorem imageGives_applyCyclic (s : State) (i : Fin 16) (y : Reply) : s.ImageGives i y (s.applyCyclic i y) := by
  have hu : (s.modSlot i fun x => { x with input := x.input.apply x.config y }) = s.recordUpdated i y := by
    simp only [recordUpdated, modSlot]
    congr 3
    simp only [InputRecord.apply, inputData]
    congr 1
    cases (s.slot i).config.errLatch <;> simp
  refine ⟨fun h1 h2 => ?_, fun h => ⟨fun he => ?_, fun he hm => ?_⟩⟩
  · simp [applyCyclic, HealthState.linked, h1, h2]
  · have hl : (s.slot i).health.state.linked = true := by rcases h with h | h <;> simp [HealthState.linked, h]
    have hn : ¬(y.evt && marked s.config.eventSet i) = true := by rcases he with he | he <;> simp [-BitVec.getLsbD_eq_getElem, he, marked]
    simp only [applyCyclic, hl, if_true, hu, if_neg hn]
  · have hl : (s.slot i).health.state.linked = true := by rcases h with h | h <;> simp [HealthState.linked, h]
    have hn : (y.evt && marked s.config.eventSet i) = true := by simp [he, marked, hm]
    rw [captureGives_iff]
    simp only [applyCyclic, hl, if_true, hn, hu]

/-- The command that decides an exchange makes the engine decide it so (R11 to R16). -/
theorem exec_of_decides {s : State} {c : Instr} {x : Exchange} {d : Decision} (h : s.Decides c x d) :
    exec c s = .next (s.decideOutcome x d).settle := by
  rcases h with ⟨rfl, ⟨rfl, h⟩ | ⟨rfl, h⟩⟩ | ⟨rfl, ⟨rfl, h⟩ | ⟨rfl, h⟩⟩ | ⟨h, v, ⟨rfl, rfl⟩ | ⟨rfl, h0, h1, h2, rfl⟩ | ⟨rfl, h4, hl, hc⟩⟩
  · simp only [exec, execResponseTimeout, h]; rfl
  · simp only [exec, execReplyStartBit, h]; rfl
  · simp only [exec, execIdleTimeout, h]; rfl
  · simp only [exec, execReplyStartBit, h]; rfl
  · simp only [exec, execReplyByte, h]; rfl
  · have hj : x.judge (x.received ++ [v]) = some (.failed .badEcho) := by
      obtain ⟨b, l, hb⟩ := List.exists_cons_of_ne_nil h2
      have : v ≠ b := by rintro rfl; exact h1 (by rw [hb]; rfl)
      simp [Exchange.judge, h0, hb, this]
    simp only [exec, execReplyByte, h, hj]; rfl
  · have hlen : (x.received ++ [v]).length = x.expected := by simpa using hl
    have h1 : ¬((x.received ++ [v]).length = 1 ∧ (x.received ++ [v]).getD 0 0 ≠ x.request.getD 0 0) := by
      rintro ⟨h1, _⟩; omega
    have h2 : ¬(x.received ++ [v]).length < x.expected := by omega
    rcases hc with ⟨hc, rfl⟩ | ⟨hc, rfl⟩
    · have hk : x.checks (x.received ++ [v]) = true := by
        simp only [Exchange.checks, Half.ofBytes]; exact decide_eq_true hc
      have hr : x.reply (x.received ++ [v]) = replyOf x (x.received ++ [v]) := by
        simp only [Exchange.reply, replyOf]
        congr 1
        cases hk : x.kind <;> simp
      simp only [exec, execReplyByte, h, Exchange.judge, if_neg h1, if_neg h2, hk, if_true, hr]; rfl
    · have hk : x.checks (x.received ++ [v]) = false := by
        simp only [Exchange.checks, Half.ofBytes]; exact decide_eq_false hc
      simp only [exec, execReplyByte, h, Exchange.judge, if_neg h1, if_neg h2, hk, Bool.false_eq_true, if_false]; rfl

theorem requestsRemoved_sched (s : State) (gone : Request → Bool) (c : Cause) :
    (s.requestsRemoved gone c).sched = s.sched := rfl

theorem healthTaken_sched (s : State) (i : Fin 16) (h : Health) : (s.healthTaken i h).sched = s.sched := by
  simp only [healthTaken]
  split <;> rfl

theorem healthTaken_cursor (s : State) (i : Fin 16) (h : Health) (p : Port) :
    ((s.healthTaken i h).port p).cursor = (s.port p).cursor := by
  simp only [healthTaken]
  split <;> cases p <;> rfl

theorem healthTaken_capture (s : State) (i : Fin 16) (h : Health) : (s.healthTaken i h).capture = s.capture := by
  simp only [healthTaken]
  split <;> rfl

theorem healthTaken_config (s : State) (i : Fin 16) (h : Health) : (s.healthTaken i h).config = s.config := by
  simp only [healthTaken]
  split <;> rfl

theorem applyCyclic_sched (s : State) (i : Fin 16) (y : Reply) : (s.applyCyclic i y).sched = s.sched := by
  unfold applyCyclic
  split
  · dsimp only
    split
    · exact (takeCapture_frame _ _).2.1
    · rfl
  · rfl

theorem endCancelling_sched (s : State) (p : Port) (w : Fin 4) : (s.endCancelling p w).sched = s.sched := by
  unfold endCancelling; split <;> rfl

theorem rejoin_sched (s : State) (r : Request) : (s.rejoin r).sched = s.sched := by
  unfold rejoin; split
  · rfl
  · split
    · rfl
    · split <;> rfl

theorem windowReport_sched (s : State) (d : Decision) : (s.windowReport d).sched = s.sched := by
  unfold windowReport
  cases s.out with
  | none => rfl
  | some r =>
    dsimp only
    split
    · cases d with
      | success y =>
        dsimp only
        unfold goodReply
        split
        · exact rejoin_sched _ _
        · split
          · rfl
          · split <;> rfl
      | failed f => rfl
    · exact endCancelling_sched _ _ _
    all_goals rfl

/-- In RUNNING a report without the discard mark is evidence, is passed on, and the next turn is taken (R31). -/
theorem decideOutcome_running {s : State} {x : Exchange} {d : Decision} (hr : s.sched.link = .running)
    (hd : s.sched.discard = false) :
    s.decideOutcome x d = ((s.evidenceTaken x d).passContents x.kind x.slot d).nextTurn := by
  have hp : ({ s with engine := .quiet x.rate .quietEntry } : State).passReport x.kind x.slot d =
      (s.evidenceTaken x d).passContents x.kind x.slot d := by
    unfold passReport
    rw [if_neg (by rw [show ({ s with engine := .quiet x.rate .quietEntry } : State).sched = s.sched from rfl, hd]; simp),
      healthEvidence_eq]
    rfl
  have hl : ((s.evidenceTaken x d).passContents x.kind x.slot d).sched = s.sched := by
    have he : (s.evidenceTaken x d).sched = s.sched := healthTaken_sched _ _ _
    unfold passContents
    cases x.kind with
    | cyclic =>
      cases d with
      | success y => exact (applyCyclic_sched _ _ _).trans he
      | failed f => exact he
    | ident => exact he
    | read => exact (windowReport_sched _ _).trans he
    | write => exact (windowReport_sched _ _).trans he
  unfold decideOutcome
  rw [hp]
  unfold afterReport
  rw [hl, hr]

theorem dropOut_sched (s : State) (c : Cause) : (s.dropOut c).sched = s.sched := by
  unfold dropOut
  cases s.out with
  | none => rfl
  | some r =>
    dsimp only
    split
    · rfl
    · exact endCancelling_sched _ _ _
    all_goals rfl

/-- In RUNNING a report under the discard mark reaches the window unit alone, and the next turn is taken (R31). -/
theorem decideOutcome_discarded {s : State} {x : Exchange} {d : Decision} (hr : s.sched.link = .running)
    (hd : s.sched.discard = true) :
    s.decideOutcome x d =
      (({ s with engine := .quiet x.rate .quietEntry } : State).passDiscarded x.kind).nextTurn := by
  have hl : (({ s with engine := .quiet x.rate .quietEntry } : State).passDiscarded x.kind).sched.link = .running := by
    unfold passDiscarded
    cases x.kind
    · exact hr
    · exact hr
    · exact (congrArg Scheduler.link (dropOut_sched _ _)).trans hr
    · exact (congrArg Scheduler.link (dropOut_sched _ _)).trans hr
  unfold decideOutcome passReport
  rw [if_pos (show ({ s with engine := .quiet x.rate .quietEntry } : State).sched.discard = true from hd)]
  unfold afterReport
  rw [hl]

/-- A slot's stop at the link's entry into STOPPED, field by field (R56, R70). -/
theorem slot_stop_eq (x : Slot) :
    x.stop =
      { x with
        health :=
          if x.health.state = .disabled ∨ x.health.state = .lockedOut then x.health
          else { x.health with
            state := .probing, round := .first, quick := 0, rounds := 0, consecutive := 0, backoff := 0 }
        input :=
          { x.input with
            state := if x.input.state = .fresh ∨ x.input.state = .stale then .lost else x.input.state
            updated := false } } := by
  unfold Slot.stop InputRecord.stop
  congr 1
  unfold Health.stop
  cases h : x.health.state <;> simp

theorem slot_stop_state_ne_iff (x : Slot) :
    x.stop.health.state ≠ x.health.state ↔
      x.health.state = .active ∨ x.health.state = .suspect ∨ x.health.state = .backoff := by
  unfold Slot.stop Health.stop
  cases h : x.health.state <;> simp [h]

/-- The link enters STOPPED: the pending request, the queue, and the rest (R25). -/
theorem enterStopped_eq (s : State) :
    s.enterStopped = ((s.withdraw .linkStopped).requestsRemoved (fun _ => true) .linkStopped).linkStopped := by
  unfold enterStopped
  rw [removeRequests_eq]
  generalize (s.withdraw .linkStopped).requestsRemoved (fun _ => true) .linkStopped = t
  unfold linkStopped
  simp only [changeSlots_eq]
  have e : (∃ i, (Slot.stop (t.slot i)).health.state ≠ (t.slot i).health.state) ↔
      ∃ i : Fin 16, (t.slot i).health.state = .active ∨ (t.slot i).health.state = .suspect ∨
        (t.slot i).health.state = .backoff := exists_congr fun i => slot_stop_state_ne_iff _
  have hs : (t.modSlots fun x => x.stop) = t.modSlots fun x =>
      { x with
        health :=
          if x.health.state = .disabled ∨ x.health.state = .lockedOut then x.health
          else { x.health with
            state := .probing, round := .first, quick := 0, rounds := 0, consecutive := 0, backoff := 0 }
        input :=
          { x.input with
            state := if x.input.state = .fresh ∨ x.input.state = .stale then .lost else x.input.state
            updated := false } } := congrArg t.modSlots (funext slot_stop_eq)
  rw [hs]
  simp only [e]
  by_cases h : ∃ i : Fin 16, (t.slot i).health.state = .active ∨ (t.slot i).health.state = .suspect ∨
      (t.slot i).health.state = .backoff
  · simp only [if_pos h]
    simp [raiseAll, PortContext.raise, Event.mask, modPorts, PerPort.map, BitVec.or_assoc]
  · simp only [if_neg h]
    simp [raiseAll, PortContext.raise, Event.mask, modPorts, PerPort.map]

/-- A report leaves the link state as it is (R31). -/
theorem passReport_link (s : State) (k : Kind) (i : Fin 16) (d : Decision) :
    (s.passReport k i d).sched.link = s.sched.link := by
  unfold passReport
  split
  · unfold passDiscarded
    cases k
    · rfl
    · rfl
    · exact (congrArg Scheduler.link (dropOut_sched (s.modSched _) .slotLeft)).trans rfl
    · exact (congrArg Scheduler.link (dropOut_sched (s.modSched _) .slotLeft)).trans rfl
  · have he : (s.healthEvidence i k d).sched = s.sched := by rw [healthEvidence_eq]; exact healthTaken_sched _ _ _
    refine congrArg Scheduler.link (Eq.trans ?_ he)
    unfold passContents
    cases k with
    | cyclic =>
      cases d with
      | success y => exact applyCyclic_sched _ _ _
      | failed f => rfl
    | ident => rfl
    | read => exact windowReport_sched _ _
    | write => exact windowReport_sched _ _

/-- Passing a report on, with or without the discard mark, whatever the link state (R31). -/
theorem passedOn_passReport (s : State) (x : Exchange) (d : Decision) :
    s.PassedOn x d (({ s with engine := .quiet x.rate .quietEntry } : State).passReport x.kind x.slot d) := by
  constructor
  · intro hd
    have hp : ({ s with engine := .quiet x.rate .quietEntry } : State).passReport x.kind x.slot d =
        (s.evidenceTaken x d).passContents x.kind x.slot d := by
      unfold passReport
      rw [if_neg (show ¬s.sched.discard = true by rw [hd]; decide), healthEvidence_eq]
      rfl
    rw [hp]
    refine ⟨fun hk => by rw [hk]; rfl, fun hk => ⟨?_, ?_⟩, ?_⟩
    · rintro f rfl; rw [hk]; rfl
    · rintro y rfl; rw [hk]; exact imageGives_applyCyclic _ _ _
    · rintro (hk | hk) <;> rw [hk] <;> rfl
  · intro hd
    refine ⟨_, rfl, ?_, ?_⟩
    · rintro (hk | hk) <;> rw [hk] <;> unfold passReport <;> rw [if_pos (show s.sched.discard = true from hd)] <;> rfl
    · rintro (hk | hk) <;> rw [hk] <;> unfold passReport <;> rw [if_pos (show s.sched.discard = true from hd)] <;>
        exact outEnds_dropOut _ _

/-- One port told, if it is a stop waiter (R24, R149). -/
theorem tellWaiter_eq (s : State) (p : Port) :
    s.tellWaiter p =
      { s.modSched fun c => { c with waiters := c.waiters.set p false } with
        ports := s.ports.set p (s.waiterTold p) } := by
  unfold tellWaiter waiterTold complete
  by_cases hw : s.sched.waiters.get p = true
  · rw [if_pos hw]
    by_cases hc : (s.command p).inProgress = true ∧ (s.command p).code = 0x0F
    · rw [if_pos (show _ by simp only [Bool.and_eq_true, decide_eq_true_eq]; exact hc), if_pos ⟨hw, hc⟩]
      cases p <;> rfl
    · rw [if_neg (show _ by simp only [Bool.and_eq_true, decide_eq_true_eq]; exact hc), if_neg fun h => hc h.2]
      cases p <;> rfl
  · rw [if_neg hw, if_neg fun h => hw h.1]
    have hs : s.sched.waiters.set p false = s.sched.waiters :=
      PerPort.ext_get fun q => by
        by_cases hq : q = p
        · subst hq; rw [PerPort.get_set_self]; simpa using hw
        · exact PerPort.get_set_ne _ _ hq
    have hp : s.ports.set p (s.port p) = s.ports := PerPort.set_get _ _
    simp only [modSched, hs, hp]

/-- The stop waiters told, one after the other (R24). -/
theorem tellWaiters_eq (s : State) : ((s.tellWaiter .a).tellWaiter .b).tellWaiter .c = s.waitersTold := by
  rw [tellWaiter_eq s, tellWaiter_eq _ .b, tellWaiter_eq _ .c]
  rfl

/-- STOPPING ends: the link STOPPED and the stop waiters told (R24). -/
theorem endStopping_eq (s : State) :
    s.endStopping =
      (((s.withdraw .linkStopped).requestsRemoved (fun _ => true) .linkStopped).linkStopped).waitersTold := by
  unfold endStopping
  rw [tellWaiters_eq, enterStopped_eq]

theorem stoppingGives_endStopping (v : State) : v.StoppingGives v.endStopping :=
  ⟨v.withdraw .linkStopped, endStopping_eq v, fun h => by unfold withdraw; rw [h],
    fun _ hh => withdrawnGives_withdraw hh _⟩

/-- In STOPPING a report is passed on, and the link enters STOPPED (R24). -/
theorem decideOutcome_stopping {s : State} {x : Exchange} {d : Decision} (h : s.sched.link = .stopping) :
    s.decideOutcome x d =
      (({ s with engine := .quiet x.rate .quietEntry } : State).passReport x.kind x.slot d).endStopping := by
  unfold decideOutcome afterReport
  rw [passReport_link, show ({ s with engine := .quiet x.rate .quietEntry } : State).sched.link = .stopping from h]

end Sys2Proof.Machine.State
end

