-- ==== Sys2Proof/Laws/CommandReports.lean ====
section
/-! SUPPORT. A command slot's own update can be made before or after what LINK_STOP and DISABLE do to the requests and the slots
(02, 03, 06, 8.7). -/

namespace Sys2Proof.Machine.State

theorem requestsRemoved_modCommand (s : State) (p : Port) (gone : Request → Bool) (c : Cause)
    (g : CommandSlot → CommandSlot) :
    (s.modCommand p g).requestsRemoved gone c = (s.requestsRemoved gone c).modCommand p g := by
  have hq : (s.modCommand p g).queue = s.queue := rfl
  unfold requestsRemoved
  simp only [hq, modCommand_window]
  cases p <;> rfl

theorem modWindow_modCommand (s : State) (p q : Port) (w : Fin 4) (f : Window → Window)
    (g : CommandSlot → CommandSlot) :
    (s.modCommand p g).modWindow q w f = (s.modWindow q w f).modCommand p g :=
  modPort_modCommand s p q _ g (fun _ _ => rfl) fun _ => rfl

theorem failWindow_modCommand (s : State) (p q : Port) (w : Fin 4) (c : Cause) (d : Byte)
    (g : CommandSlot → CommandSlot) :
    (s.modCommand p g).failWindow q w c d = (s.failWindow q w c d).modCommand p g := by
  unfold failWindow
  rw [modWindow_modCommand]
  exact modPort_modCommand _ p q _ g (fun _ _ => rfl) fun _ => rfl

theorem endCancelling_modCommand (s : State) (p q : Port) (w : Fin 4) (g : CommandSlot → CommandSlot) :
    (s.modCommand p g).endCancelling q w = (s.endCancelling q w).modCommand p g := by
  unfold endCancelling
  rw [modCommand_window]
  split
  · exact modWindow_modCommand _ _ _ _ _ _
  · exact failWindow_modCommand _ _ _ _ _ _ _

theorem dropOut_modCommand (s : State) (p : Port) (c : Cause) (g : CommandSlot → CommandSlot) :
    (s.modCommand p g).dropOut c = (s.dropOut c).modCommand p g := by
  unfold dropOut
  rw [modCommand_out]
  cases s.out with
  | none => rfl
  | some r =>
    have e : { s.modCommand p g with out := none } = ({ s with out := none } : State).modCommand p g := rfl
    simp only [e, modCommand_window]
    split
    · exact failWindow_modCommand _ _ _ _ _ _ _
    · exact endCancelling_modCommand _ _ _ _ _
    all_goals rfl

theorem withdraw_modCommand (s : State) (p : Port) (c : Cause) (g : CommandSlot → CommandSlot) :
    (s.modCommand p g).withdraw c = (s.withdraw c).modCommand p g := by
  unfold withdraw
  rw [modCommand_handed]
  cases s.handed with
  | none => rfl
  | some h =>
    have e : { s.modCommand p g with handed := none } = ({ s with handed := none } : State).modCommand p g := rfl
    simp only [e]
    cases h.kind
    · rfl
    · rfl
    · exact dropOut_modCommand _ _ _ _
    · exact dropOut_modCommand _ _ _ _

theorem changeSlot_modCommand (s : State) (p : Port) (i : Fin 16) (f : Slot → Slot) (g : CommandSlot → CommandSlot) :
    (s.modCommand p g).changeSlot i f = (s.changeSlot i f).modCommand p g := by
  rw [changeSlot_eq, changeSlot_eq]
  exact modPorts_modCommand (s.modSlot i f) p _ g (fun _ _ => rfl) fun _ => rfl

theorem changeSlots_modCommand (s : State) (p : Port) (f : Slot → Slot) (g : CommandSlot → CommandSlot) :
    (s.modCommand p g).changeSlots f = (s.changeSlots f).modCommand p g := by
  rw [changeSlots_eq, changeSlots_eq]
  exact modPorts_modCommand (s.modSlots f) p _ g (fun _ _ => rfl) fun _ => rfl

/-- The link's entry into STOPPED within a LINK_STOP. -/
theorem enterStopped_modCommand (s : State) (p : Port) (g : CommandSlot → CommandSlot) :
    (s.modCommand p g).enterStopped = s.enterStopped.modCommand p g := by
  unfold enterStopped
  simp only [withdraw_modCommand, removeRequests_eq, requestsRemoved_modCommand, changeSlots_modCommand]
  generalize ((s.withdraw .linkStopped).requestsRemoved (fun _ => true) .linkStopped).changeSlots (·.stop) = t
  have h : (t.modCommand p g).raiseAll .linkChange = (t.raiseAll .linkChange).modCommand p g :=
    modPorts_modCommand t p _ g (fun _ _ => rfl) fun _ => rfl
  rw [h]
  rfl

/-- A DISABLE's work within the command. -/
theorem disableSlot_modCommand (s : State) (p : Port) (i : Fin 16) (g : CommandSlot → CommandSlot) :
    (s.modCommand p g).disableSlot i = (s.disableSlot i).modCommand p g := by
  unfold disableSlot
  simp only [changeSlot_modCommand, slotLeft, removeRequests_eq, requestsRemoved_modCommand]
  generalize (s.changeSlot i (·.disable)).requestsRemoved (fun r => r.slot = i) .slotLeft = t
  have hm : (t.modCommand p g).markDiscard i = (t.markDiscard i).modCommand p g := by
    unfold markDiscard
    rw [modCommand_engine]
    split
    · split <;> rfl
    · rfl
  rw [hm]
  generalize t.markDiscard i = u
  unfold withdrawDisabled
  rw [modCommand_handed]
  cases u.handed with
  | none => rfl
  | some h =>
    dsimp only
    split
    · simp only [withdraw_modCommand, modCommand_sched]
      split
      · exact nextTurn_modCommand _ _ _
      · rfl
    · rfl

/-- The exchange in flight of slot `i` is marked for discard (R31, R55). -/
theorem markDiscard_eq (s : State) (i : Fin 16) :
    s.markDiscard i = s.modSched fun c =>
      { c with discard := c.discard || s.engine.exchange.any fun x => x.slot = i } := by
  unfold markDiscard
  cases s.engine.exchange with
  | none => simp [modSched]
  | some x => by_cases h : x.slot = i <;> simp [modSched, h]

/-- DISABLE of a slot that is not DISABLED, up to the withdrawal of a pending request (R54, R55, R110). -/
theorem disableSlot_eq {s : State} {i : Fin 16} (h : (s.slot i).health.state ≠ .disabled) :
    s.disableSlot i =
      ((((s.modSlot i (·.disable)).modPorts fun c => { c with events := c.events ||| 0x08 }).requestsRemoved
        (fun r => r.slot = i) .slotLeft).modSched fun c =>
          { c with discard := c.discard || s.engine.exchange.any fun x => x.slot = i }).withdrawDisabled i := by
  unfold disableSlot slotLeft
  rw [removeRequests_eq, changeSlot_eq, if_neg (fun e => h e.symm)]
  rw [markDiscard_eq]
  rfl

end Sys2Proof.Machine.State
end

