-- ==== Sys2Proof/Laws/Crc.lean ====
section
/-! SUPPORT. The check word as a fold over the bytes (R10). -/

namespace Sys2Proof.Machine

@[simp] theorem evaluated_eq {α : Type} (n : Nat) (k : Nat → α) : evaluated n k = k n := by
  cases n <;> rfl

theorem crcFrom_nil (r : Half) : crcFrom r [] = r := rfl

theorem crcFrom_cons (r : Half) (b : Byte) (rest : List Byte) : crcFrom r (b :: rest) = crcFrom (crcByte r b) rest := by
  simp [crcFrom]

/-- The register after some bytes is the fold of one byte's work over them. -/
theorem crcFrom_eq_foldl (bytes : List Byte) (r : Half) : crcFrom r bytes = bytes.foldl crcByte r := by
  induction bytes generalizing r with
  | nil => rfl
  | cons b rest ih => rw [crcFrom_cons, ih]; rfl

theorem crcFrom_append (r : Half) (xs ys : List Byte) : crcFrom r (xs ++ ys) = crcFrom (crcFrom r xs) ys := by
  simp [crcFrom_eq_foldl]

end Sys2Proof.Machine
end

