-- ==== Sys2Proof/Laws/Memory.lean ====
section
/-! SUPPORT. The store's cells: every operation keeps the canonical form, and what each cell reads after it. -/

namespace Sys2Proof.Machine.Memory

open Sys2Proof

/-- The canonical form from a later address is the canonical form from an earlier one. -/
theorem wfFrom_mono {m : Memory} {a b : Nat} (h : wfFrom b m = true) (hab : a ≤ b) : wfFrom a m = true := by
  cases m with
  | nil => rfl
  | cons c rest =>
    obtain ⟨k, v⟩ := c
    simp only [wfFrom, Bool.and_eq_true, decide_eq_true_eq] at h ⊢
    exact ⟨⟨⟨by omega, h.1.1.2⟩, h.1.2⟩, h.2⟩

theorem wfFrom_cell {rest : Memory} {a b : Nat} {v : Byte} (h : wfFrom (a + 1) rest = true) (hb : b ≤ a)
    (ha : a < Config.storeSize) : wfFrom b (cell a v rest) = true := by
  unfold cell
  split
  · exact wfFrom_mono h (by omega)
  · rename_i hv
    simp [wfFrom, hb, ha, hv, h]

theorem wfFrom_insert {m : Memory} {a b : Nat} {v : Byte} (h : wfFrom b m = true) (hb : b ≤ a)
    (ha : a < Config.storeSize) : wfFrom b (insert m a v) = true := by
  induction m generalizing b with
  | nil => exact wfFrom_cell rfl hb ha
  | cons c rest ih =>
    obtain ⟨k, w⟩ := c
    simp only [wfFrom, Bool.and_eq_true, decide_eq_true_eq] at h
    simp only [insert]
    split
    · refine wfFrom_cell ?_ hb ha
      simp only [wfFrom, Bool.and_eq_true, decide_eq_true_eq]
      exact ⟨⟨⟨by omega, h.1.1.2⟩, h.1.2⟩, h.2⟩
    · split
      · rename_i _ he
        subst he
        exact wfFrom_cell h.2 hb ha
      · simp only [wfFrom, Bool.and_eq_true, decide_eq_true_eq]
        exact ⟨⟨⟨h.1.1.1, h.1.1.2⟩, h.1.2⟩, ih h.2 (by omega)⟩

/-- A write of one cell keeps the canonical form. -/
theorem wf_write {m : Memory} {a : Nat} {v : Byte} (h : wf m = true) : wf (write m a v) = true := by
  unfold write
  split
  · exact wfFrom_insert h (Nat.zero_le _) (by assumption)
  · exact h

theorem wfFrom_ofBytes (start : Nat) (bytes : List Byte) : wfFrom start (ofBytes start bytes) = true := by
  induction bytes generalizing start with
  | nil => rfl
  | cons v rest ih =>
    simp only [ofBytes]
    split
    · exact wfFrom_cell (ih _) (Nat.le_refl _) (by assumption)
    · rfl

/-- Cells written from a list of bytes are in the canonical form. -/
theorem wf_ofBytes (start : Nat) (bytes : List Byte) : wf (ofBytes start bytes) = true :=
  wfFrom_mono (wfFrom_ofBytes start bytes) (Nat.zero_le _)

/-- A store never written is in the canonical form. -/
theorem wf_nil : wf [] = true := rfl

/-- A cell below every listed one reads erased. -/
theorem read_below {m : Memory} {a b : Nat} (h : wfFrom b m = true) (hab : a < b) :
    read m a = Config.erasedCell := by
  induction m generalizing b with
  | nil => rfl
  | cons c rest ih =>
    obtain ⟨k, w⟩ := c
    simp only [wfFrom, Bool.and_eq_true, decide_eq_true_eq] at h
    simp only [read]
    rw [if_neg (by omega)]
    exact ih h.2 (by omega)

/-- A cell past the end of the store reads erased. -/
theorem read_past {m : Memory} {a b : Nat} (h : wfFrom b m = true) (ha : Config.storeSize ≤ a) :
    read m a = Config.erasedCell := by
  induction m generalizing b with
  | nil => rfl
  | cons c rest ih =>
    obtain ⟨k, w⟩ := c
    simp only [wfFrom, Bool.and_eq_true, decide_eq_true_eq] at h
    simp only [read]
    rw [if_neg (by omega)]
    exact ih h.2

theorem read_cell {rest : Memory} {a b : Nat} {v : Byte} (h : wfFrom (a + 1) rest = true) :
    read (cell a v rest) b = if b = a then v else read rest b := by
  unfold cell
  split
  · rename_i hv
    split
    · rename_i hb
      subst hb
      rw [read_below h (by omega), hv]
    · rfl
  · simp [read]

theorem read_insert {m : Memory} {a b k : Nat} {v : Byte} (h : wfFrom b m = true) (hb : b ≤ a) :
    read (insert m a v) k = if k = a then v else read m k := by
  induction m generalizing b with
  | nil => exact read_cell rfl
  | cons c rest ih =>
    obtain ⟨l, w⟩ := c
    simp only [wfFrom, Bool.and_eq_true, decide_eq_true_eq] at h
    simp only [insert]
    split
    · exact read_cell (by simp only [wfFrom, Bool.and_eq_true, decide_eq_true_eq]; exact ⟨⟨⟨by omega, h.1.1.2⟩, h.1.2⟩, h.2⟩)
    · split
      · rename_i _ he
        subst he
        rw [read_cell h.2]
        simp only [read]
        split <;> rfl
      · simp only [read]
        rw [ih h.2 (by omega)]
        split
        · rename_i hk
          subst hk
          rw [if_neg (by omega)]
        · rfl

/-- What each cell reads after a write of one. -/
theorem read_write {m : Memory} {a k : Nat} {v : Byte} (h : wf m = true) :
    read (write m a v) k = if k = a ∧ a < Config.storeSize then v else read m k := by
  unfold write
  split
  · rename_i ha
    rw [read_insert h (Nat.zero_le _)]
    simp [ha]
  · rename_i ha
    simp [ha]

/-- What each cell reads after cells have been written from a list of bytes. -/
theorem read_ofBytes (start : Nat) (bytes : List Byte) (k : Nat) :
    read (ofBytes start bytes) k =
      if start ≤ k ∧ k < Config.storeSize then bytes.getD (k - start) Config.erasedCell else Config.erasedCell := by
  induction bytes generalizing start with
  | nil => simp [ofBytes, read]
  | cons v rest ih =>
    simp only [ofBytes]
    split
    · rename_i hs
      rw [read_cell (wfFrom_ofBytes _ _), ih]
      by_cases hk : k = start
      · subst hk; simp [hs]
      · rw [if_neg hk]
        by_cases h1 : start + 1 ≤ k
        · have h2 : start ≤ k := by omega
          have h3 : k - start = (k - (start + 1)) + 1 := by omega
          simp only [h1, h2, true_and, h3]
          split <;> simp
        · have h2 : ¬start ≤ k := by omega
          simp [h1, h2]
    · rename_i hs
      simp only [read]
      rw [if_neg (by omega)]

/-- The bytes of a run of cells: as many as asked for. -/
theorem length_expand (n start : Nat) (m : Memory) : (expand n start m).length = n := by
  induction n generalizing start m with
  | zero => rfl
  | succ k ih =>
    cases m with
    | nil => simp [expand, ih]
    | cons c rest =>
      obtain ⟨b, v⟩ := c
      simp only [expand]
      split <;> simp [ih]

/-- The bytes of a run of cells are what the cells read. -/
theorem getD_expand {n start k : Nat} {m : Memory} (h : wfFrom start m = true) (hk : k < n) (d : Byte) :
    (expand n start m).getD k d = read m (start + k) := by
  induction n generalizing start m k with
  | zero => omega
  | succ n ih =>
    cases m with
    | nil =>
      simp only [expand]
      cases k with
      | zero => rfl
      | succ k =>
        have := ih (start := start + 1) (m := []) (k := k) rfl (by omega)
        simpa [read] using this
    | cons c rest =>
      obtain ⟨b, v⟩ := c
      simp only [wfFrom, Bool.and_eq_true, decide_eq_true_eq] at h
      simp only [expand]
      split
      · rename_i hb
        subst hb
        cases k with
        | zero => simp [read]
        | succ k =>
          have := ih (start := b + 1) (m := rest) (k := k) h.2 (by omega)
          simp only [List.getD_cons_succ, this, read]
          rw [if_neg (by omega)]
          congr 1
          omega
      · rename_i hb
        cases k with
        | zero =>
          simp only [List.getD_cons_zero, read, Nat.add_zero]
          rw [if_neg (by omega), read_below h.2 (by omega)]
        | succ k =>
          have hw : wfFrom (start + 1) ((b, v) :: rest) = true := by
            simp only [wfFrom, Bool.and_eq_true, decide_eq_true_eq]
            exact ⟨⟨⟨by omega, h.1.1.2⟩, h.1.2⟩, h.2⟩
          have := ih (start := start + 1) (m := (b, v) :: rest) (k := k) hw (by omega)
          simp only [List.getD_cons_succ, this]
          congr 1
          omega

end Sys2Proof.Machine.Memory
end

