-- ==== Sys2Proof/Laws/Reads.lean ====
section
/-! SUPPORT. Where a read goes and what it returns (8.6, 11.1, 11.3): the image location at an image address, and a read that does
nothing but return a byte. -/

namespace Sys2Proof.Machine

/-- The location at an address of a slot's runtime page. -/
theorem ImageLocation.at_runtime {n : BitVec 13} {i : Fin 16} {off : Nat} (h : n.toNat = off + 128 * i.val)
    (ho : off < 128) : ImageLocation.at n = .runtime i off := by
  have h1 : n.toNat / 128 = i.val := by omega
  have h2 : n.toNat % 128 = off := by omega
  have h3 : i.val < 16 := i.isLt
  simp only [ImageLocation.at, h1, h2, h3, if_true]
  congr 1
  exact Fin.ext (Nat.mod_eq_of_lt h3)

/-- The location at an address of a slot's configuration page. -/
theorem ImageLocation.at_config {n : BitVec 13} {i : Fin 16} {off : Nat} (h : n.toNat = 0x0800 + off + 128 * i.val)
    (ho : off < 128) :
    ImageLocation.at n = match ConfigField.at off with | some f => .config i f | none => .unassigned := by
  have h3 : i.val < 16 := i.isLt
  have h1 : n.toNat / 128 = 16 + i.val := by omega
  have h2 : n.toNat % 128 = off := by omega
  have h4 : ¬16 + i.val < 16 := by omega
  have h5 : 16 + i.val < 32 := by omega
  have h6 : Fin.ofNat 16 (16 + i.val) = i := Fin.ext (by simp [Fin.ofNat, Nat.mod_eq_of_lt h3])
  cases hf : ConfigField.at off <;> simp only [ImageLocation.at, h1, h2, h4, if_false, h5, if_true, h6, hf]

/-- The location at an address of the capture read area. -/
theorem ImageLocation.at_capture {n : BitVec 13} (h1 : 0x1000 ≤ n.toNat) (h2 : n.toNat ≤ 0x11FF) :
    ImageLocation.at n = .capture (n.toNat - 0x1000) := by
  have a : ¬n.toNat / 128 < 16 := by omega
  have b : ¬n.toNat / 128 < 32 := by omega
  have c : n.toNat / 128 < 36 := by omega
  simp only [ImageLocation.at, a, b, c, if_true, if_false]

/-- The location at an address of the settings page. -/
theorem ImageLocation.at_settings {n : BitVec 13} {off : Nat} (h : n.toNat = 0x1200 + off) (ho : off < 128) :
    ImageLocation.at n = .settings off := by
  have a : n.toNat / 128 = 36 := by omega
  have b : n.toNat % 128 = off := by omega
  simp [ImageLocation.at, a, b]

/-- The locations past the last field of the settings page, the capture status page and the identity page, and the pages after
them, are unassigned (R176). -/
theorem ImageLocation.at_unassigned {n : BitVec 13}
    (h : (0x1205 ≤ n.toNat ∧ n.toNat ≤ 0x120F) ∨ (0x1222 ≤ n.toNat ∧ n.toNat ≤ 0x127F) ∨
      (0x1286 ≤ n.toNat ∧ n.toNat ≤ 0x12FF) ∨ (0x1305 ≤ n.toNat ∧ n.toNat ≤ 0x137F) ∨ 0x1380 ≤ n.toNat) :
    ImageLocation.at n = .unassigned := by
  rcases h with h | h | h | h | h
  · rw [ImageLocation.at_settings (off := n.toNat - 0x1200) (by omega) (by omega)]
    have a : ¬n.toNat - 0x1200 < 5 := by omega
    have b : n.toNat - 0x1200 < 16 := by omega
    simp [ImageLocation.settings, a, b]
  · rw [ImageLocation.at_settings (off := n.toNat - 0x1200) (by omega) (by omega)]
    have a : ¬n.toNat - 0x1200 < 5 := by omega
    have b : ¬n.toNat - 0x1200 < 16 := by omega
    have c : Global.all[n.toNat - 0x1200 - 16]? = none := by
      rw [List.getElem?_eq_none_iff]; simp [Global.all]; omega
    simp [ImageLocation.settings, a, b, c]
  · have a : n.toNat / 128 = 37 := by omega
    have b : ¬n.toNat % 128 < 6 := by omega
    simp [ImageLocation.at, a, b]
  · have a : n.toNat / 128 = 38 := by omega
    have b : ¬n.toNat % 128 < 5 := by omega
    simp [ImageLocation.at, a, b]
  · have a : ¬n.toNat / 128 < 39 := by omega
    have b : ¬n.toNat / 128 < 16 := by omega
    have c : ¬n.toNat / 128 < 32 := by omega
    have d : ¬n.toNat / 128 < 36 := by omega
    have e : ¬n.toNat / 128 = 36 := by omega
    have f : ¬n.toNat / 128 = 37 := by omega
    have g : ¬n.toNat / 128 = 38 := by omega
    simp [ImageLocation.at, b, c, d, e, f, g]

namespace State

/-- An access at an image address reaches its location, by the image window or by DATA (R143, R144). -/
theorem target_of_atImage {s : State} {p : Port} {a : Byte} {n : BitVec 13} (h : s.AtImage p a n) :
    s.target p a = .image (.at n) := by
  rcases h with ⟨h1, h2⟩ | ⟨rfl, rfl⟩
  · have e : PageLocation.at a = .image (a.toNat - 0x80) := by
      have b1 : ¬a.toNat < 0x20 := by omega
      have b2 : ¬a.toNat < 0x30 := by omega
      have b3 : ¬a.toNat < 0x40 := by omega
      have b4 : ¬a.toNat < 0x80 := by omega
      simp only [PageLocation.at, b1, b2, b3, b4, if_false]
    have ha : a.toNat < 256 := a.isLt
    have hp : (s.port p).page.toNat < 64 := (s.port p).page.isLt
    have en : s.windowAddress p (a.toNat - 0x80) = n := by
      unfold windowAddress
      rw [← h2]; simp
    simp only [target, e, en]
  · rfl

/-- A read that does nothing but return a byte of the port page. -/
theorem plainRead_page {s : State} {p : Port} {a : Byte} {l : PageLocation} (h : s.Stands p false a)
    (ht : s.target p a = .page l) (hl : ∀ w, l = .window w (.data 0) → (s.window p w).fetch = false) :
    (execPlainWrite p .read s) = .next (s.accessDone p false a (s.pageByte p l)) := by
  have hm : s.isPlainRead p (s.target p a) = true := by
    rw [ht]
    unfold isPlainRead isFetchTrigger Target.isInputState
    cases l with
    | window w f =>
      cases f with
      | data k =>
        by_cases hk : k = 0
        · subst hk; simp [hl w rfl]
        · simp [hk]
      | _ => rfl
    | _ => rfl
  have he : readEffect p (s.target p a) s = s := by
    rw [ht]
    cases l with
    | window w f =>
      cases f with
      | data k =>
        simp only [readEffect, readDataByte]
        by_cases hk : k = 0
        · subst hk; simp [hl w rfl]
        · simp [hk]
      | _ => rfl
    | _ => rfl
  unfold execPlainWrite
  rw [readAccess_mine h hm, he, ht]
  rfl

/-- A read that does nothing but return a byte of the image space, as PLAIN_WRITE or, at DATA, as DATA_ACCESS. -/
theorem plainRead_image {s : State} {p : Port} {a : Byte} {n : BitVec 13} (h : s.Stands p false a)
    (ha : s.AtImage p a n) (hl : ∀ i, ImageLocation.at n ≠ .inputState i) :
    (execPlainWrite p .read s) = .next (s.accessDone p false a (s.imageByte p (.at n))) ∧
      (a = 0x13 → execDataAccess p .read s = .next (s.accessDone p false a (s.imageByte p (.at n)))) := by
  have ht := target_of_atImage ha
  have he : readEffect p (s.target p a) s = s := by
    rw [ht]
    cases e : ImageLocation.at n with
    | inputState i => exact absurd e (hl i)
    | _ => rfl
  have hm : s.isPlainRead p (s.target p a) = true := by
    rw [ht]
    cases e : ImageLocation.at n with
    | inputState i => exact absurd e (hl i)
    | _ => rfl
  constructor
  · unfold execPlainWrite
    rw [readAccess_mine h hm, he, ht]
    rfl
  · intro hd
    have hmm : (s.atData p && (s.target p a).isImage) = true := by
      rw [ht]; simp [atData, h.2, hd, dataAddress, Target.isImage]
    unfold execDataAccess
    rw [readAccess_mine (mine := fun t => s.atData p && t.isImage) h hmm, he, ht]
    rfl

end State

end Sys2Proof.Machine
end

