-- ==== Sys2Proof/Laws/Saves.lean ====
section
/-! SUPPORT. What the body phase of a save leaves in each cell (R172, log entry 9). -/

namespace Sys2Proof.Machine

@[simp] theorem overlay_length (misread : List Host.Cell) (start : Nat) (image : List Byte) :
    (overlay misread start image).length = image.length := by
  induction image generalizing start with
  | nil => rfl
  | cons v rest ih => simp [overlay, ih]

/-- The first pair that names a cell gives its byte. -/
theorem find_cell_eq_lookup (misread : List Host.Cell) (a : Nat) (v : Byte) :
    (match misread.find? fun c => c.1 = a with
      | some c => c.2
      | none => v) = (misread.lookup a).getD v := by
  induction misread with
  | nil => rfl
  | cons c rest ih =>
    obtain ⟨b, x⟩ := c
    by_cases h : b = a
    · subst h
      simp [List.find?, List.lookup]
    · have hb : (a == b) = false := by simpa using fun e : a = b => h e.symm
      simp only [List.find?, h, decide_false, List.lookup, hb]
      exact ih

/-- Each cell holds the byte the first pair names for it, or else the image's. -/
theorem overlay_getD (misread : List Host.Cell) (start j : Nat) (image : List Byte) (h : j < image.length) :
    (overlay misread start image).getD j 0 = (misread.lookup (start + j)).getD (image.getD j 0) := by
  induction image generalizing start j with
  | nil => simp at h
  | cons v rest ih =>
    cases j with
    | zero =>
      simp only [overlay, List.getD_cons_zero]
      exact find_cell_eq_lookup misread start v
    | succ j =>
      simp only [overlay, List.getD_cons_succ]
      rw [ih (start + 1) j (by simpa using h), Nat.add_right_comm start 1 j, Nat.add_assoc]

end Sys2Proof.Machine
end

