-- ==== Sys2Proof/Laws/StoreImage.lean ====
section
/-! SUPPORT. The store image byte by byte (R164, R167, 11.5): the fields the load reads, each from its cell. -/

namespace Sys2Proof.Machine

/-- A list from a position on, its first byte apart. -/
theorem drop_getD {image : List Byte} {n : Nat} (h : n < image.length) :
    image.drop n = image.getD n 0 :: image.drop (n + 1) := by
  rw [List.drop_eq_getElem_cons h]
  simp [List.getD_eq_getElem?_getD, List.getElem?_eq_getElem h]

/-- The 18 bytes of the settings in an image, each from its cell (11.5). -/
theorem imageGlobals_eq {image : List Byte} (h : image.length = 1024) :
    imageGlobals image =
      [(.bitRate, image.getD 0x003 0), (.period, image.getD 0x004 0), (.timeout, image.getD 0x005 0),
        (.allowance, image.getD 0x006 0), (.staleLimit, image.getD 0x007 0), (.suspectLimit, image.getD 0x008 0),
        (.firstQuick, image.getD 0x009 0), (.rejoinQuick, image.getD 0x00A 0), (.backoff, image.getD 0x00B 0),
        (.lockout, image.getD 0x00C 0), (.roles, image.getD 0x00D 0), (.linkstat, image.getD 0x00E 0),
        (.pinEdge, image.getD 0x00F 0), (.timerDivider, image.getD 0x010 0), (.captureLow, image.getD 0x011 0),
        (.captureHigh, image.getD 0x012 0), (.eventLow, image.getD 0x013 0), (.eventHigh, image.getD 0x014 0)] := by
  unfold imageGlobals Global.all
  iterate 18 rw [drop_getD (by rw [h]; decide)]
  rfl

/-- The 23 bytes of a slot's configuration in an image, each from its cell (11.5). -/
theorem imageFields_eq {image : List Byte} (h : image.length = 1024) (i : Fin 16) {b : Nat}
    (hb : b = 0x040 + 32 * i.val) :
    imageFields image i =
      [(.address, image.getD b 0), (.options, image.getD (b + 1) 0), (.classLow, image.getD (b + 2) 0),
        (.classHigh, image.getD (b + 3) 0), (.inputLength, image.getD (b + 4) 0), (.outputLength, image.getD (b + 5) 0),
        (.pollDivider, image.getD (b + 6) 0)] ++
        (List.finRange 16).map fun k => (.safe k, image.getD (b + 8 + k.val) 0) := by
  have hi := i.isLt
  unfold imageFields blockCell
  rw [← hb]
  iterate 24 rw [drop_getD (by rw [h]; omega)]
  rfl

namespace State

/-- The cells' bytes are what the cells read. -/
theorem cellBytes_getD {s : State} (h : Memory.wf s.store.cells = true) {a : Nat} (ha : a < 1024) :
    s.cellBytes.getD a 0 = Memory.read s.store.cells a :=
  (Memory.getD_expand (n := Config.storeSize) h ha 0).trans (by rw [Nat.zero_add])

theorem cellBytes_length (s : State) : s.cellBytes.length = 1024 := Memory.length_expand _ _ _

/-- The cells that the CRC is computed over (R167). -/
theorem cellBytes_take {s : State} (h : Memory.wf s.store.cells = true) :
    s.cellBytes.take 0x3FE = (List.range 0x3FE).map (Memory.read s.store.cells) := by
  refine List.ext_getElem (by simp [cellBytes_length]) fun n h1 h2 => ?_
  have hn : n < 0x3FE := by simpa using h2
  have := cellBytes_getD h (show n < 1024 by omega)
  rw [List.getD_eq_getElem?_getD, List.getElem?_eq_getElem (by rw [cellBytes_length]; omega)] at this
  simpa using this

/-- The slot blocks of an image, 32 bytes each (R164). -/
def blocks (s : State) : List Byte := allSlots.flatMap fun i => (s.slot i).config.block

theorem blocks_length (s : State) : s.blocks.length = 512 := by
  simp [blocks, List.length_flatMap, SlotConfig.block, allSlots]

/-- A byte of a slot block. -/
theorem blocks_getElem? (s : State) (i : Fin 16) {off : Nat} (h : off < 32) :
    s.blocks[32 * i.val + off]? = (s.slot i).config.block[off]? := by
  have hb : ∀ j, (s.slot j).config.block.length = 32 := fun j => by simp [SlotConfig.block]
  have key : ∀ (l : List (Fin 16)) (n : Nat) (j : Fin 16), l[n]? = some j →
      (l.flatMap fun j => (s.slot j).config.block)[32 * n + off]? = (s.slot j).config.block[off]? := by
    intro l
    induction l with
    | nil => intro n j hj; simp at hj
    | cons k rest ih =>
      intro n j hj
      cases n with
      | zero =>
        simp only [List.getElem?_cons_zero, Option.some.injEq] at hj
        subst hj
        rw [List.flatMap_cons, List.getElem?_append_left (by rw [hb]; omega)]
        simp
      | succ n =>
        rw [List.getElem?_cons_succ] at hj
        rw [List.flatMap_cons, List.getElem?_append_right (by rw [hb]; omega), hb,
          show 32 * (n + 1) + off - 32 = 32 * n + off by omega]
        exact ih n j hj
  exact key allSlots i.val i (by simp [allSlots])

theorem imageBody_eq (s : State) :
    s.imageBody =
      ([Config.validation0, Config.validation1, 1] ++ Global.all.map s.config.byte) ++
        (List.replicate 0x02B 0 ++ (s.blocks ++ List.replicate 0x1BE 0)) := by
  unfold imageBody blocks
  simp only [List.append_assoc]

theorem imageBody_length (s : State) : s.imageBody.length = 0x3FE := by
  rw [imageBody_eq]
  simp only [List.length_append, List.length_replicate, List.length_map, blocks_length]
  rfl

theorem saveImage_length (s : State) : s.saveImage.length = 1024 := by
  simp [saveImage, imageBody_length]

theorem saveImage_take (s : State) : s.saveImage.take 0x3FE = s.imageBody := by
  unfold saveImage
  rw [List.take_append_of_le_length (by rw [imageBody_length]), List.take_of_length_le (by rw [imageBody_length])]

/-- The image's bytes before its CRC. -/
theorem saveImage_body (s : State) {a : Nat} (h : a < 0x3FE) : s.saveImage[a]? = s.imageBody[a]? := by
  unfold saveImage
  exact List.getElem?_append_left (by rw [imageBody_length]; exact h)

/-- The validation word, the version and the settings of an image (11.5). -/
theorem saveImage_head (s : State) {a : Nat} (h : a < 0x015) :
    s.saveImage[a]? = ([Config.validation0, Config.validation1, 1] ++ Global.all.map s.config.byte)[a]? := by
  rw [saveImage_body s (by omega), imageBody_eq, List.getElem?_append_left (by simp [Global.all]; omega)]

/-- The cells between the settings and the slot blocks (11.5). -/
theorem saveImage_gap (s : State) {a : Nat} (h1 : 0x015 ≤ a) (h2 : a ≤ 0x03F) : s.saveImage[a]? = some 0 := by
  rw [saveImage_body s (by omega), imageBody_eq, List.getElem?_append_right (by simp [Global.all]; omega),
    List.getElem?_append_left (by simp [Global.all]; omega)]
  rw [List.getElem?_replicate, if_pos (by simp [Global.all]; omega)]

/-- A byte of a slot's block in an image (11.5). -/
theorem saveImage_block (s : State) (i : Fin 16) {off : Nat} (h : off < 32) :
    s.saveImage[0x040 + 32 * i.val + off]? = (s.slot i).config.block[off]? := by
  have hi := i.isLt
  rw [saveImage_body s (by omega), imageBody_eq, List.getElem?_append_right (by simp [Global.all]; omega),
    List.getElem?_append_right (by simp [Global.all]; omega),
    List.getElem?_append_left (by simp [Global.all, blocks_length]; omega), ← blocks_getElem? s i h]
  congr 1
  simp [Global.all]
  omega

/-- The cells between the slot blocks and the CRC (11.5). -/
theorem saveImage_tail (s : State) {a : Nat} (h1 : 0x240 ≤ a) (h2 : a ≤ 0x3FD) : s.saveImage[a]? = some 0 := by
  rw [saveImage_body s (by omega), imageBody_eq, List.getElem?_append_right (by simp [Global.all]; omega),
    List.getElem?_append_right (by simp [Global.all]; omega),
    List.getElem?_append_right (by simp [Global.all, blocks_length]; omega)]
  rw [List.getElem?_replicate, if_pos (by simp [Global.all, blocks_length]; omega)]

end State

end Sys2Proof.Machine
end

