-- ==== Sys2Proof/Tests/Slice0.lean ====
section
/-! SUPPORT. Tests: the checks of WellFormed, worked examples of the spec in one step each, and for every statement with
hypotheses a state and operands that meet them. -/

namespace Sys2Proof.Tests

open Sys2Proof Sys2Proof.Machine

/-! ### Terms that WellFormed refuses -/

theorem test_cut_past_the_body_is_ill_formed :
    (Instr.partReset .pin .low ⟨true, true, 1023, false⟩).wellFormed = false ∧
      (Instr.partReset .pin .low ⟨true, true, 1022, true⟩).wellFormed = true := by decide

theorem test_named_code_is_no_unknown_command :
    (Instr.unknownCommand .a 0x01).wellFormed = false ∧ (Instr.unknownCommand .a 0x10).wellFormed = false ∧
      (Instr.unknownCommand .a 0x00).wellFormed = true ∧ (Instr.unknownCommand .a 0x11).wellFormed = true := by decide

theorem test_misread_outside_the_body_is_ill_formed :
    (Instr.saveBodyDone [(1, 0)]).wellFormed = false ∧ (Instr.saveBodyDone [(1024, 0)]).wellFormed = false ∧
      (Instr.saveBodyDone [(2, 0), (1023, 0)]).wellFormed = true := by decide

/-! ### Small states -/

/-- The T16 just after a start-up on the defaults. -/
def started : State :=
  { State.reset with ready := true, engine := .ready }

/-- The transport of port `p` at address `a` of a transfer. -/
def stand (p : Port) (w : Bool) (a : Byte) (s : State) : State :=
  match p with
  | .a => { s with spiA := ⟨.data w a, some 0⟩ }
  | .b => { s with spiB := ⟨.data w a, some 0⟩ }
  | .c => { s with i2c := { s.i2c with phase := if w then .writing else .reading, current := a } }

/-- Port `p` at CMD, with `arg` in ARG0. -/
def commanding (p : Port) (arg : Byte) (s : State) : State :=
  stand p true 0x08 (s.modCommand p fun c => { c with arg0 := arg })

/-- The state after a command. -/
def after (c : Instr) (s : State) : State :=
  match exec c s with
  | .next t => t
  | .fault _ => s
  | .refused _ => s

/-- A slot that is ACTIVE with station address `a`. -/
def active (a : Byte) (x : Slot) : Slot :=
  { x with config := { x.config with address := a }, health := { x.health with state := .active } }

/-- An exchange of slot `i`. -/
def exchange (k : Kind) (i : Fin 16) (expected : Nat) (received : List Byte) : Exchange :=
  ⟨k, i, [0x45, 0x2A], expected, 20, 2, received⟩

/-! ### Worked examples -/

theorem test_crc_check_value :
    crc [0x31, 0x32, 0x33, 0x34, 0x35, 0x36, 0x37, 0x38, 0x39] = 0x29B1 := by decide +kernel

/-- The IDENT request of 1.4.1: slot 3, station address 5, cycle number 0x012A. -/
theorem test_ident_request :
    ((started.modSlot 3 (active 5)).modSched fun c => { c with cycle := 0x012A }).requestFrame .ident 3 =
      [0x45, 0x2A, 0x6A, 0x1E] := by decide +kernel

/-- The claim over I2C of 8.12: slot 3 gets owner C, RES DONE, RES_DETAIL 3, and the address moves to ARG0. -/
theorem test_claim_over_i2c :
    let t := after (.claim .c) (commanding .c 3 started)
    (t.slot 3).owner = some .c ∧ (t.command .c).result = .done ∧ (t.command .c).detail = 3 ∧ t.i2c.current = 0x09 ∧
      t.i2c.ack = true := by decide +kernel

theorem test_default_start_up :
    let t := after .storeLoadDone State.reset
    t.ready = true ∧ t.store.state = .defaulted ∧ t.sched.link = .stopped ∧ t.roles = ⟨.control, .control, .supervise⟩ ∧
      t.config = .default := by decide +kernel

/-- The default roles byte (11.3.4) and the default long backoff (10.4). -/
theorem test_default_bytes :
    LiveConfig.default.byte .roles = 0x20 ∧ LiveConfig.default.byte .backoff = 50 ∧
      LiveConfig.default.byte .bitRate = 0x02 := by decide

/-- A write of an operation byte that is neither 0x01 nor 0x02 makes the transfer void (R137). -/
theorem test_void_transfer :
    (after (.spiOperationByte .a 0x03) { started with spiA := ⟨.operation, some 0⟩ }).spiA = ⟨.void, some 0⟩ := by
  decide +kernel

/-- The due test of 2.10: cycle 257, divider 2, slot 1 is due; divider 4, slot 5 is not. -/
theorem test_due_slots :
    ((active 1 (Slot.reset)).planned 257 0 = true) ∧
      ({ active 1 Slot.reset with config := { SlotConfig.default with pollDivider := 2 } } : Slot).planned 257 1 = true ∧
      ({ active 1 Slot.reset with config := { SlotConfig.default with pollDivider := 4 } } : Slot).planned 257 5 = false := by
  decide

/-- The ageing of 4.11: age 1 with stale limit 1 stays FRESH, age 2 is STALE. -/
theorem test_ageing :
    ({ InputRecord.reset with state := .fresh, age := 0 } : InputRecord).cycleEnd 1 =
        { InputRecord.reset with state := .fresh, age := 1 } ∧
      ({ InputRecord.reset with state := .fresh, age := 1 } : InputRecord).cycleEnd 1 =
        { InputRecord.reset with state := .stale, age := 2 } := by decide

/-- The last probe of 3.16: the third round ends in LOCKED_OUT with rounds 3, quick attempts 2, failure count 9. -/
theorem test_lockout :
    ({ Health.reset with state := .probing, round := .rejoin, quick := 1, rounds := 2, failureCount := 8 } :
        Health).report .default .default .ident (.failed .noReply) =
      { Health.reset with
        state := .lockedOut, round := .rejoin, quick := 2, rounds := 3, failureCount := 9,
        lastFailure := some .noReply, lockCause := .noResponse } := by decide

/-- The REVOKE of 5.10 under policy SAFE: CLAIM_LOST, the stage discarded, the safe output loaded, RES_DETAIL 2. -/
theorem test_revoke :
    let s := commanding .c 3 ((started.modSlot 3 fun x =>
      { x with
        owner := some .a
        config := { x.config with outputLength := 2, releaseSafe := true }
        output := ⟨Vector.replicate 16 0x10, 7⟩ }).modPort .a fun c =>
      { c with stage := some ⟨3, Vector.replicate 16 0x11⟩ })
    let t := after (.revoke .c) s
    (t.slot 3).owner = none ∧ (t.slot 3).output = ⟨Vector.replicate 16 0, 7⟩ ∧ (t.port .a).stage = none ∧
      (t.port .a).stageDiscarded = true ∧ (t.port .a).events = 0x10 ∧ (t.command .c).detail = 2 := by decide +kernel

/-- The first FETCH of 6.10: the read returns 0, the window is QUEUED, and the address moves on by 4. -/
theorem test_fetch_with_step :
    let s := stand .c false 0x58 ((started.modSlot 9 (active 1)).modWindow .c 1 fun w =>
      { w with slot := 9, fetch := true, step := true, address := 0x0100 })
    let t := after (.fetchTrigger .c) s
    t.i2c.sda = some 0 ∧ (t.window .c 1).state = .queued ∧ (t.window .c 1).address = 0x0104 ∧
      t.queue = [⟨.c, 1, 9, .read, 0x0100, 0⟩] := by decide +kernel

/-- The third BUSY of 6.9: the request fails. -/
theorem test_third_busy :
    let s := { started.modWindow .a 0 fun w => { w with slot := 4, state := .inFlight } with
      out := some ⟨.a, 0, 4, .write (Vector.replicate 4 1), 0x0020, 2⟩ }
    let t := s.windowReport (.success ⟨false, false, false, true, [0]⟩)
    (t.window .a 0).state = .failed ∧ (t.window .a 0).cause = .busy ∧ t.out = none := by decide +kernel

/-- The lost captures of 7.11 show in the next record. -/
theorem test_lost_before :
    let s := { started.modPort .c fun c => { c with cursor := some ⟨41, 0⟩ } with capture := ⟨[], 50, 2⟩ }
    let t := s.takeCapture .pin
    t.capture.ring.map (·.lostBefore) = [2] ∧ t.capture.sequence = 51 ∧ t.capture.lost = 0 ∧
      (t.port .c).unread = 1 := by decide +kernel

/-- PORT_CLEAR during LINK_STOP (8.13): RES NONE, RES_DETAIL 0x0F, no stop waiter. -/
theorem test_port_clear_during_stop :
    let s := stand .c true 0x08 ((started.modSched fun c =>
      { c with link := .stopping, waiters := ⟨false, false, true⟩ }).modCommand .c fun c =>
        { c with inProgress := true, code := 0x0F, result := .inProgress })
    let t := after (.portClear .c) s
    (t.command .c).result = .none ∧ (t.command .c).detail = 0x0F ∧ (t.command .c).inProgress = false ∧
      t.sched.waiters = ⟨false, false, false⟩ := by decide +kernel

/-- PTR and DATA (8.11): the read of a state byte through DATA takes the snapshot and moves PTR on. -/
theorem test_data_read :
    let s := stand .a false 0x13 ((started.modSlot 2 fun x =>
      { x with input := { x.input with state := .fresh, generation := 17 } }).modPort .a fun c =>
        { c with pointer := 0x0100 })
    let t := after (.dataAccess .a .read) s
    t.spiA = ⟨.data false 0x13, some 1⟩ ∧ (t.port .a).pointer = 0x0101 ∧
      (t.port .a).snapshot.map (·.generation) = some 17 := by decide +kernel

/-- ADVANCE of 7.11: seven records are left and the oldest is freed. -/
theorem test_advance :
    let s := commanding .c 0 { started.modPort .c fun c => { c with cursor := some ⟨40, 2⟩ } with
      capture := ⟨[⟨40, .pin, 0, 0, []⟩, ⟨41, .pin, 0, 0, []⟩], 42, 0⟩ }
    let t := after (.advance .c) s
    (t.command .c).result = .done ∧ (t.command .c).detail = 1 ∧ t.capture.ring = [⟨41, .pin, 0, 0, []⟩] ∧
      (t.port .c).cursor = some ⟨41, 1⟩ := by decide +kernel

/-- An image location out of every table (R176) and the four corners of the assigned ones (11.3). -/
theorem test_image_locations :
    ImageLocation.at 0x0000 = .inputState 0 ∧ ImageLocation.at 0x07B2 = .commit 15 ∧
      ImageLocation.at 0x0F97 = .config 15 (.safe 15) ∧ ImageLocation.at 0x11FF = .capture 0x1FF ∧
      ImageLocation.at 0x1221 = .setting .eventHigh ∧ ImageLocation.at 0x1285 = .captureStatus 5 ∧
      ImageLocation.at 0x1304 = .identity 4 ∧ ImageLocation.at 0x1222 = .unassigned ∧
      ImageLocation.at 0x1305 = .unassigned ∧ ImageLocation.at 0x1380 = .unassigned := by decide

/-- The store image of the default configuration is accepted and loads back. -/
theorem test_default_image :
    imageAccepted State.reset.saveImage = true ∧ imageConfig State.reset.saveImage = .default ∧
      imageSlot State.reset.saveImage 15 = .default := by decide +kernel

/-- A save interrupted in its second phase (10.8): the cells hold no validation word. -/
theorem test_reset_cuts_save :
    let s := { started with store := ⟨[(2, 1), (1023, 0)], .saving, .powerOn, .inProgress,
      some ⟨State.reset.saveImage, .body, .c, true⟩⟩ }
    let t := after (.partReset .pin .high ⟨false, false, 3, true⟩) s
    Memory.read t.store.cells 0 = 0xFF ∧ Memory.read t.store.cells 3 = 0x02 ∧ Memory.read t.store.cells 4 = 8 ∧
      Memory.read t.store.cells 5 = 0xFF ∧ t.store.resetCause = .pin ∧ t.i2c.addr = .high := by decide +kernel

/-! ### Witnesses: for each statement, states and operands that meet the hypotheses of its clauses -/

/-- A ready port whose transport stands at any address. -/
theorem stand_stands (p : Port) (w : Bool) (a : Byte) : (stand p w a started).Stands p w a := by
  cases p <;> cases w <;> exact ⟨rfl, rfl⟩

/-- Port `p` at DATA with this pointer. -/
def pointing (p : Port) (w : Bool) (ptr : BitVec 13) (s : State) : State :=
  stand p w 0x13 (s.modPort p fun c => { c with pointer := ptr })

/-- Through DATA a port reaches every image location. -/
theorem pointing_stands (p : Port) (w : Bool) (ptr : BitVec 13) :
    (pointing p w ptr started).Stands p w 0x13 ∧
      (pointing p w ptr started).target p 0x13 = .image (.at ptr) := by
  cases p <;> cases w <;> exact ⟨⟨rfl, rfl⟩, rfl⟩

/-- The default state with port `p` in a role. -/
def withRole (p : Port) (r : Role) (s : State) : State := { s with roles := s.roles.set p r }

/-- The default state with a ring and a cursor of port A. -/
def subscribedWith (k : Option Cursor) (ring : List CaptureRecord) (s : State) : State :=
  { s.modPort .a fun c => { c with cursor := k } with capture := ⟨ring, 9, 1⟩ }

/-- Window A3 in a state, in a mode, with a mask; its row is 0x70 to 0x7F. -/
def window3 (x : WindowState) (fetch : Bool) (mask : BitVec 4) (s : State) : State :=
  s.modWindow .a 3 fun w => { w with slot := 15, state := x, fetch := fetch, mask := mask }

theorem witness_StepTakesFrontCommand (c : Instr) (rest : List Instr) :
    (∃ s : State, s.pending = c :: rest) ∧ ∃ s : State, s.pending = [] :=
  ⟨⟨{ State.reset with pending := c :: rest }, rfl⟩, State.reset, rfl⟩

theorem witness_PartResetTakesBlocksBack : State.reset.store.save = none := rfl

/-- A state in the middle of a save. -/
def saving (phase : SavePhase) (tell : Bool) : State :=
  { (started.modCommand .c fun c => { c with inProgress := true, code := 0x10, result := .inProgress }) with
    store := ⟨[(2, 1)], .saving, .powerOn, .inProgress, some ⟨State.reset.saveImage, phase, .c, tell⟩⟩ }

theorem saved_length : State.reset.saveImage.length = Config.storeSize := by decide +kernel

theorem saving_sound (phase : SavePhase) (tell : Bool) : (saving phase tell).StoreSound := by
  refine ⟨rfl, fun v hv => ?_⟩
  cases hv
  exact ⟨saved_length, fun _ => ⟨rfl, rfl⟩⟩

theorem witness_ResetDuringSave (phase : SavePhase) :
    (∃ (s : State) (v : Save), s.StoreSound ∧ s.store.save = some v ∧ v.phase = phase) ∧
      (⟨false, false, 0, false⟩ : SaveCut).wellFormed = true ∧ (⟨true, false, 0, false⟩ : SaveCut).wellFormed = true ∧
      (⟨false, true, 1022, true⟩ : SaveCut).wellFormed = true :=
  ⟨⟨saving phase true, _, saving_sound phase true, rfl, rfl⟩, rfl, rfl, rfl⟩

theorem witness_StartUpDefaulted :
    (State.reset.ready = false ∧ imageAccepted State.reset.cellBytes = false) ∧ started.ready = true :=
  ⟨⟨rfl, by decide +kernel⟩, rfl⟩

/-- A part just out of reset whose store holds the image of the configuration of `s`. -/
def stored (s : State) : State :=
  { State.reset with store := { State.reset.store with cells := Memory.ofBytes 0 s.saveImage } }

/-- Slots 0 and 1 marked with address 1, slot 2 with address 0, slot 15 with address 62, slot 3 not marked. -/
def marks (s : State) : State :=
  let mark (i : Fin 16) (a : Byte) (t : State) : State :=
    t.modSlot i fun x => { x with config := { x.config with address := a, enableAtStart := true } }
  mark 15 62 (mark 2 0 (mark 1 1 (mark 0 1 s)))

theorem witness_StartUpValid_supervise :
    let s := stored (marks State.reset)
    s.ready = false ∧ (∀ i, (s.slot i).health.state = .disabled) ∧ imageAccepted s.cellBytes = true ∧
      (imageConfig s.cellBytes).autoStart = false ∧ (imageConfig s.cellBytes).roles.get .c = .supervise ∧
      (((after .storeLoadDone s).slot 0).health.state = .probing ∧
        ((after .storeLoadDone s).slot 1).health.state = .disabled ∧
        ((after .storeLoadDone s).slot 2).health.state = .disabled ∧
        ((after .storeLoadDone s).slot 3).health.state = .disabled ∧
        ((after .storeLoadDone s).slot 15).health.state = .probing) := by decide +kernel

theorem witness_StartUpValid_no_supervise :
    let s := stored { State.reset with config := { LiveConfig.default with roles := ⟨.control, .observe, .observe⟩ } }
    s.ready = false ∧ imageAccepted s.cellBytes = true ∧ (imageConfig s.cellBytes).autoStart = false ∧
      (imageConfig s.cellBytes).roles = ⟨.control, .observe, .observe⟩ := by decide +kernel

theorem witness_StartUpValid_auto_start :
    let s := stored { marks State.reset with config := { LiveConfig.default with autoStart := true } }
    s.ready = false ∧ s.sched.deferred = false ∧ (∀ i, (s.slot i).health.state = .disabled) ∧
      imageAccepted s.cellBytes = true ∧ (imageConfig s.cellBytes).autoStart = true ∧
      ((imageConfig s.cellBytes).roles.get .c = .supervise ∧ (imageSlot s.cellBytes 15).enableAtStart = true) := by
  decide +kernel

theorem reset_in_range : State.reset.ConfigInRange := by
  refine ⟨fun g => by cases g <;> decide, fun i f => ?_⟩
  have : (State.reset.slot i).config = .default := by revert i; decide
  rw [this]
  cases f with
  | safe k => revert k; decide
  | _ => decide

/-- For LoadJudgesImage and LoadedFieldsFromCells: cells in canonical form, never written (refused), and holding an image that is
accepted. -/
theorem witness_cells :
    (Memory.wf State.reset.store.cells = true ∧ imageAccepted State.reset.cellBytes = false) ∧
      Memory.wf (stored (marks State.reset)).store.cells = true ∧
      imageAccepted (stored (marks State.reset)).cellBytes = true := by decide +kernel

/-- For SavedImageAtCells: bytes at the ends of the parts of an image, of slot 15's block too. -/
theorem witness_image_cells :
    let m := (marks State.reset).saveImage
    m[0x001]? = some 0x6D ∧ m[0x003]? = some 0x02 ∧ m[0x014]? = some 0 ∧ m[0x015]? = some 0 ∧ m[0x03F]? = some 0 ∧
      m[0x040]? = some 1 ∧ m[0x220]? = some 62 ∧ m[0x221]? = some 1 ∧ m[0x226]? = some 1 ∧ m[0x237]? = some 0 ∧
      m[0x23F]? = some 0 ∧ m[0x3FD]? = some 0 ∧ m[0x3FF]?.isSome = true ∧ m[0x400]? = none := by decide +kernel

theorem witness_SavedImageLoadsBack : ∃ s : State, s.ConfigInRange := ⟨State.reset, reset_in_range⟩

theorem witness_TransportEvents (p : SpiPort) (x : SpiPhase) (y : I2cPhase) (lv : Level) :
    (∃ s : State, (s.spi p).phase = x) ∧ ∃ s : State, s.i2c.phase = y ∧ s.i2c.addr = lv :=
  ⟨⟨started.setSpi p ⟨x, none⟩, by cases p <;> rfl⟩, { started with i2c := ⟨y, 0, lv, none, false⟩ }, rfl, rfl⟩

theorem witness_LoadingAccessReachesNoOwner (p : Port) (x : Access) (a : Byte) :
    ∃ (i : Instr) (s : State), i.wellFormed = true ∧ i.access = some (p, x) ∧ s.ready = false ∧ s.transfer p = some (x.isWrite, a) :=
  ⟨.plainWrite p x, stand p x.isWrite a State.reset, rfl, rfl, by cases p <;> rfl, by cases p <;> cases x <;> rfl⟩

theorem witness_AccessAdvancesAddress (p : Port) (v : Byte) :
    (∃ (i : Instr) (s : State), i.wellFormed = true ∧ i.access = some (p, .read) ∧ s.transfer p = some (false, 0xFF) ∧
        s.ready = false) ∧
      (∃ (i : Instr) (s : State), i.wellFormed = true ∧ i.access = some (p, .write v) ∧ s.transfer p = some (true, 0x05) ∧
        s.rowTakes p i (s.target p 0x05) = true) ∧
      (∃ (i : Instr) (s : State), i.wellFormed = true ∧ i.access = some (p, .read) ∧ s.transfer p = some (false, 0x13) ∧
        s.rowTakes p i (s.target p 0x13) = true) ∧
      ∃ (i : Instr) (s : State), i.access = some (p, .write v) ∧ s.Stands p true 0x06 ∧
        s.rowTakes p i (s.target p 0x06) = false :=
  ⟨⟨.plainWrite p .read, stand p false 0xFF State.reset, rfl, rfl, by cases p <;> rfl, by cases p <;> rfl⟩,
    ⟨.eventsWrite p v, stand p true 0x05 started, rfl, rfl, by cases p <;> rfl, rfl⟩,
    ⟨.dataAccess p .read, stand p false 0x13 started, rfl, rfl, by cases p <;> rfl, by cases p <;> rfl⟩,
    .eventsWrite p v, stand p true 0x06 started, rfl, stand_stands p _ _, rfl⟩

/-- For AccessDrivesLines: every state has the byte the clause names, so the states of `witness_AccessAdvancesAddress` meet its
hypotheses; a read at DATA, at a page location and in LOADING are among them. -/
theorem witness_AccessDrivesLines (p : Port) (a : Byte) (s : State) :
    ∃ next r : Byte, next = (if a = 0x13 then a else a + 1) ∧ (s.ready = false → r = 0) ∧
      (s.ready = true →
        (∀ l, s.target p a = .page l → r = s.pageByte p l) ∧ ∀ l, s.target p a = .image l → r = s.imageByte p l) := by
  refine ⟨_, if s.ready then State.readValue p (s.target p a) s else 0, rfl, fun h => by simp [h], fun h => ⟨?_, ?_⟩⟩ <;>
    intro l hl <;> simp [h, hl, State.readValue]

/-- For ReadByteAppears: each port is an SPI port's or Port C. -/
theorem witness_ReadByteAppears (p : Port) : p = .c ∨ ∃ q : SpiPort, q.port = p := by
  cases p
  · exact .inr ⟨.a, rfl⟩
  · exact .inr ⟨.b, rfl⟩
  · exact .inl rfl

theorem witness_EventRegisterWrites (p : Port) : (∃ s : State, s.Stands p true 0x05) ∧ ∃ s : State, s.Stands p true 0x06 :=
  ⟨⟨_, stand_stands p _ _⟩, _, stand_stands p _ _⟩

theorem witness_PortRegisterWrites (p : Port) :
    ∀ a ∈ [(0x04 : Byte), 0x10, 0x11, 0x12], ∃ s : State, s.Stands p true a :=
  fun a _ => ⟨_, stand_stands p true a⟩

theorem witness_DataAccessStreams (p : Port) (w : Bool) :
    (∃ s : State, s.Stands p w 0x13 ∧ ImageLocation.at (s.port p).pointer = .inputState 15) ∧
      ∃ s : State, s.Stands p w 0x13 ∧ ∀ i, ImageLocation.at (s.port p).pointer ≠ .inputState i := by
  refine ⟨⟨pointing p w 0x0780 started, (pointing_stands p w _).1, ?_⟩, pointing p w 0x1FFF started,
    (pointing_stands p w _).1, fun i => ?_⟩
  · cases p <;> cases w <;> decide
  · cases p <;> cases w <;> simp [pointing, stand, State.modPort, State.port, PerPort.set, PerPort.get, ImageLocation.at]

theorem witness_ReadOnlyAndPlainWrites_page (p : Port) :
    ∀ a ∈ [(0x00 : Byte), 0x03, 0x07, 0x09, 0x0A, 0x0B, 0x0C, 0x0D, 0x0E, 0x0F, 0x14, 0x16, 0x17, 0x1F, 0x20, 0x2F,
      0x30, 0x3F], ∃ s : State, s.Stands p true a := fun a _ => ⟨_, stand_stands p true a⟩

theorem witness_ReadOnlyAndPlainWrites_window (p : Port) :
    (∃ s : State, s.Stands p true 0x45 ∧ s.target p 0x45 = .page (.window 0 .state)) ∧
      (∃ s : State, s.Stands p true 0x46 ∧ s.target p 0x46 = .page (.window 0 .cause)) ∧
      (∃ s : State, s.Stands p true 0x7C ∧ s.target p 0x7C = .page (.window 3 .detail)) ∧
      ∃ s : State, s.Stands p true 0x7F ∧ s.target p 0x7F = .page (.window 3 .unassigned) :=
  ⟨⟨_, stand_stands p _ _, rfl⟩, ⟨_, stand_stands p _ _, rfl⟩, ⟨_, stand_stands p _ _, rfl⟩, _, stand_stands p _ _, rfl⟩

theorem witness_ReadOnlyAndPlainWrites_image (p : Port) (ptr : BitVec 13) :
    (∃ s : State, s.Stands p true 0x13 ∧ s.target p 0x13 = .image (.at ptr)) ∧
      ImageLocation.at 0x0000 = .inputState 0 ∧ ImageLocation.at 0x0794 = .inputByte 15 0x14 ∧
      ImageLocation.at 0x0020 = .commitCount 0 ∧ ImageLocation.at 0x0021 = .outputLength 0 ∧
      ImageLocation.at 0x0040 = .health 0 0x40 ∧ ImageLocation.at 0x0050 = .health 0 0x50 ∧
      ImageLocation.at 0x0048 = .owner 0 ∧ ImageLocation.at 0x1000 = .capture 0 ∧
      ImageLocation.at 0x1204 = .linkStatus 4 ∧ ImageLocation.at 0x1280 = .captureStatus 0 ∧
      ImageLocation.at 0x1300 = .identity 0 ∧ ImageLocation.at 0x0051 = .unassigned ∧
      ImageLocation.at 0x1FFF = .unassigned :=
  ⟨⟨_, pointing_stands p true ptr⟩, by decide⟩

theorem witness_ReadsReturnByte_plain (p : Port) :
    (∃ s : State, s.Stands p false 0x58 ∧ s.target p 0x58 = .page (.window 1 (.data 0)) ∧ (s.window p 1).fetch = false) ∧
      ∃ s : State, s.Stands p false 0x13 ∧ s.target p 0x13 = .image .unassigned :=
  ⟨⟨_, stand_stands p _ _, rfl, by cases p <;> rfl⟩, _, pointing_stands p false 0x1FFF⟩

/-- Image-window accesses of page 0. -/
theorem image_window_of_page_zero (s : State) (h : (s.port .a).page = 0) :
    s.target .a 0x81 = .image (.inputByte 0 1) ∧ s.target .a 0xA2 = .image (.output 0 0) := by
  have e (off : Nat) : Target.image (.at (s.windowAddress .a off)) = .image (.at (BitVec.ofNat 13 off)) := by
    simp [State.windowAddress, h]
  exact ⟨(e 0x01).trans (by decide), (e 0x22).trans (by decide)⟩

theorem witness_ReadsReturnByte_snapshot (r : RecordCopy) :
    (∃ s : State, s.Stands .a false 0x81 ∧ s.target .a 0x81 = .image (.inputByte 0 1) ∧
        (s.port .a).snapshot = some { r with slot := 0 }) ∧
      (∃ s : State, s.Stands .a false 0x81 ∧ s.target .a 0x81 = .image (.inputByte 0 1) ∧
        (s.port .a).snapshot = some { r with slot := 1 }) ∧
      ∃ s : State, s.Stands .a false 0x81 ∧ s.target .a 0x81 = .image (.inputByte 0 1) ∧ (s.port .a).snapshot = none :=
  ⟨⟨stand .a false 0x81 (started.modPort .a fun c => { c with snapshot := some { r with slot := 0 } }), ⟨rfl, rfl⟩,
      (image_window_of_page_zero _ rfl).1, rfl⟩,
    ⟨stand .a false 0x81 (started.modPort .a fun c => { c with snapshot := some { r with slot := 1 } }), ⟨rfl, rfl⟩,
      (image_window_of_page_zero _ rfl).1, rfl⟩,
    stand .a false 0x81 started, ⟨rfl, rfl⟩, (image_window_of_page_zero _ rfl).1, rfl⟩

/-- An access of DATA stands at every image address, and one through the image window at every one of its page. -/
theorem at_image (p : Port) (w : Bool) (n : BitVec 13) (s : State) (hs : s.ready = true) :
    (∃ t : State, t.Stands p w 0x13 ∧ t.AtImage p 0x13 n) ∧
      ∃ (t : State) (a : Byte), t.Stands p w a ∧ t.AtImage p a n := by
  constructor
  · exact ⟨pointing p w n s, by cases p <;> cases w <;> exact ⟨hs, rfl⟩, .inr ⟨rfl, by cases p <;> rfl⟩⟩
  · have hn : n.toNat < 8192 := n.isLt
    refine ⟨stand p w (BitVec.ofNat 8 (0x80 + n.toNat % 128)) (s.modPort p fun c =>
      { c with page := BitVec.ofNat 6 (n.toNat / 128) }), _, by cases p <;> cases w <;> exact ⟨hs, rfl⟩, .inl ⟨?_, ?_⟩⟩
    · simp only [BitVec.toNat_ofNat]; omega
    · have : ((stand p w (BitVec.ofNat 8 (0x80 + n.toNat % 128)) (s.modPort p fun c =>
        { c with page := BitVec.ofNat 6 (n.toNat / 128) })).port p).page = BitVec.ofNat 6 (n.toNat / 128) := by
        cases p <;> rfl
      rw [this]
      simp only [BitVec.toNat_ofNat]; omega

/-- The addresses that the clause on writes names, at their ranges' ends. -/
theorem witness_ImageWritesByAddress (p : Port) :
    ∀ n ∈ [(0x0000 : BitVec 13), 0x0001, 0x0014, 0x0015, 0x001F, 0x0020, 0x0021, 0x0033, 0x003F, 0x0040, 0x0048, 0x0050,
      0x0051, 0x007F, 0x0780, 0x07D0, 0x07FF, 0x0807, 0x0818, 0x087F, 0x0F87, 0x0FFF, 0x1000, 0x1204, 0x1205, 0x120F,
      0x1222, 0x127F, 0x1280, 0x1285, 0x1286, 0x12FF, 0x1300, 0x1304, 0x1305, 0x137F, 0x1380, 0x1FFF],
      (∃ s : State, s.Stands p true 0x13 ∧ s.AtImage p 0x13 n) ∧
        ∃ (s : State) (a : Byte), s.Stands p true a ∧ s.AtImage p a n :=
  fun n _ => at_image p true n started rfl

/-- The addresses that the read clauses name stand at their ranges' ends: the first and the last byte of each field of slots 0
and 15, of the capture read area, the settings, the capture status and the identity. -/
theorem witness_reads_image (p : Port) :
    ∀ n ∈ [(0x0001 : BitVec 13), 0x0004, 0x0005, 0x0014, 0x0781, 0x0794, 0x0015, 0x001F, 0x0020, 0x0021, 0x0022, 0x0031,
      0x0032, 0x003F, 0x0040, 0x0050, 0x0051, 0x007F, 0x07A0, 0x07B1, 0x07D0, 0x07FF, 0x0800, 0x0807, 0x0808, 0x0817,
      0x0818, 0x087F, 0x0F80, 0x0F97, 0x0FFF, 0x1000, 0x1008, 0x1009, 0x101E, 0x101F, 0x11FF, 0x1200, 0x1204, 0x1205,
      0x120F, 0x1210, 0x1221, 0x1222, 0x127F, 0x1280, 0x1285, 0x1286, 0x12FF, 0x1300, 0x1304, 0x1305, 0x137F, 0x1380,
      0x1FFF],
      (∃ s : State, s.Stands p false 0x13 ∧ s.AtImage p 0x13 n) ∧
        ∃ (s : State) (a : Byte), s.Stands p false a ∧ s.AtImage p a n :=
  fun n _ => at_image p false n started rfl

/-- Port page and window rows: a state stands at every address, with window A3 in either mode. -/
theorem witness_reads_page (p : Port) (a : Byte) (fetch : Bool) :
    (∃ s : State, s.Stands p false a) ∧ ∃ s : State, s.Stands .a false a ∧ (s.window .a 3).fetch = fetch :=
  ⟨⟨_, stand_stands p _ _⟩, stand .a false a (window3 .idle fetch 0 started), ⟨rfl, rfl⟩, rfl⟩

/-- Both records a port can see. -/
theorem witness_reads_record (p : Port) (i : Fin 16) (r : RecordCopy) :
    (∃ s : State, (s.port p).snapshot = some { r with slot := i } ∧ s.Shows p i { r with slot := i }) ∧
      ∃ (s : State) (x : RecordCopy), (s.port p).snapshot = none ∧ s.Shows p i x :=
  ⟨⟨started.modPort p fun c => { c with snapshot := some { r with slot := i } }, by cases p <;> rfl,
      .inl ⟨by cases p <;> rfl, rfl⟩⟩,
    started, _, by cases p <;> rfl, .inr ⟨fun x hx => (by cases p <;> cases hx), rfl⟩⟩

/-- A cursor with a record of one entry, one with none, and no cursor. -/
theorem witness_reads_capture (r : CaptureRecord) (y : RecordCopy) :
    (∃ s : State, (s.port .a).cursor = none) ∧ (∃ s : State, ∃ k, (s.port .a).cursor = some k ∧ k.unread = 0) ∧
      ∃ s : State, ∃ k, (s.port .a).cursor = some k ∧ 0 < k.unread ∧
        s.capture.ring[s.capture.ring.length - k.unread]? = some { r with entries := [y] } :=
  ⟨⟨started, rfl⟩, ⟨subscribedWith (some ⟨9, 0⟩) [] started, ⟨9, 0⟩, rfl, rfl⟩,
    subscribedWith (some ⟨8, 1⟩) [{ r with entries := [y] }] started, ⟨8, 1⟩, rfl, Nat.zero_lt_one, rfl⟩

/-- The roles' codes that the settings page shows. -/
theorem witness_reads_settings :
    ∃ code : Role → BitVec 2, code .control = 0 ∧ code .observe = 1 ∧ code .supervise = 2 := ⟨Role.code, rfl, rfl, rfl⟩

theorem witness_TakeSnapshotCopiesRecord (p : Port) :
    ∀ i ∈ [(0 : Fin 16), 15], ∃ n : BitVec 13, n.toNat = 128 * i.val ∧
      (∃ s : State, s.Stands p false 0x13 ∧ s.AtImage p 0x13 n) ∧
        ∃ (s : State) (a : Byte), s.Stands p false a ∧ s.AtImage p a n :=
  fun i _ => ⟨BitVec.ofNat 13 (128 * i.val), by simp only [BitVec.toNat_ofNat]; omega, at_image p false _ started rfl⟩

theorem witness_CommandSlotTaking (p : Port) :
    (∃ s : State, s.Stands p true 0x08 ∧ (s.command p).inProgress = true) ∧
      (∃ s : State, s.CanCommand p) ∧ (Instr.claim p).wellFormed = true ∧ (Instr.claim p).commandOf = some p ∧
      (0x11 : Byte).toNat = 0x11 :=
  ⟨⟨commanding p 0 (started.modCommand p fun c => { c with inProgress := true }), by cases p <;> exact ⟨⟨rfl, rfl⟩, rfl⟩⟩,
    ⟨commanding p 0 started, by cases p <;> exact ⟨⟨rfl, rfl⟩, rfl⟩⟩, rfl, rfl, rfl⟩

/-- A port in any role that can issue a command with any ARG0. -/
theorem can_command (p : Port) (r : Role) (arg : Byte) :
    (withRole p r (commanding p arg started)).CanCommand p ∧ (withRole p r (commanding p arg started)).role p = r ∧
      ((withRole p r (commanding p arg started)).command p).arg0 = arg := by
  cases p <;> exact ⟨⟨⟨rfl, rfl⟩, rfl⟩, rfl, rfl⟩

theorem witness_CommandCheckRefusals (p : Port) :
    (∀ r, ∃ s : State, s.CanCommand p ∧ s.role p = r ∧ (s.command p).arg0.toNat = 16) ∧
      ∃ s : State, s.CanCommand p ∧ (s.command p).arg0.toNat = 4 :=
  ⟨fun r => ⟨_, (can_command p r 16).1, (can_command p r 16).2.1, by rw [(can_command p r 16).2.2]; rfl⟩,
    _, (can_command p .control 4).1, by rw [(can_command p .control 4).2.2]; rfl⟩

theorem witness_ClaimByOwner (o : Option Port) :
    ∃ s : State, s.CanCommand .c ∧ s.NamesSlot .c 15 ∧ s.role .c ≠ .observe ∧ (s.slot 15).owner = o :=
  ⟨commanding .c 15 (started.modSlot 15 fun x => { x with owner := o }), ⟨⟨rfl, rfl⟩, rfl⟩, rfl,
    (by decide : Role.supervise ≠ Role.observe), rfl⟩

theorem witness_ReleaseAndRevoke (o : Option Port) (safe : Bool) :
    ∃ s : State, s.CanCommand .c ∧ s.NamesSlot .c 15 ∧ s.role .c = .supervise ∧ (s.slot 15).owner = o ∧
      (s.slot 15).config.releaseSafe = safe :=
  ⟨commanding .c 15 (started.modSlot 15 fun x =>
    { x with owner := o, config := { x.config with releaseSafe := safe } }), ⟨⟨rfl, rfl⟩, rfl⟩, rfl, rfl, rfl, rfl⟩

theorem witness_OutputByteWriteBuildsStage (r : Role) (n : Byte) (g : Option Stage) :
    ∃ s : State, s.Stands .a true 0xA2 ∧ s.target .a 0xA2 = .image (.output 0 0) ∧ s.role .a = r ∧
      (s.slot 0).config.outputLength = n ∧ (s.port .a).stage = g :=
  ⟨stand .a true 0xA2 (withRole .a r ((started.modSlot 0 fun x =>
    { x with config := { x.config with outputLength := n } }).modPort .a fun c => { c with stage := g })),
    ⟨rfl, rfl⟩, (image_window_of_page_zero _ rfl).2, rfl, rfl, rfl⟩

/-- Slot 0's commit location through the image window, slot 15's through DATA. -/
theorem witness_CommitByStageAndOwner (r : Role) (o : Option Port) (g : Option Stage) :
    (∃ s : State, s.Stands .a true 0xB2 ∧ s.AtImage .a 0xB2 0x0032 ∧ s.role .a = r ∧ (s.slot 0).owner = o ∧
        (s.port .a).stage = g) ∧
      (∃ s : State, s.Stands .a true 0x13 ∧ s.AtImage .a 0x13 0x07B2 ∧ s.role .a = r ∧ (s.slot 15).owner = o ∧
        (s.port .a).stage = g) ∧
      (0x0032 : BitVec 13).toNat = 0x32 + 128 * (0 : Fin 16).val ∧
      (0x07B2 : BitVec 13).toNat = 0x32 + 128 * (15 : Fin 16).val :=
  ⟨⟨stand .a true 0xB2 (withRole .a r ((started.modSlot 0 fun x => { x with owner := o }).modPort .a fun c =>
      { c with stage := g })), ⟨rfl, rfl⟩, .inl ⟨by decide, rfl⟩, rfl, rfl, rfl⟩,
    ⟨pointing .a true 0x07B2 (withRole .a r ((started.modSlot 15 fun x => { x with owner := o }).modPort .a fun c =>
      { c with stage := g })), ⟨rfl, rfl⟩, .inr ⟨rfl, rfl⟩, rfl, rfl, rfl⟩, rfl, rfl⟩

/-- Slot 15 in a health state with address `a`, and slot 0 in a health state with address `b`. -/
def twoSlots (h : HealthState) (a : Byte) (k : HealthState) (b : Byte) : State :=
  (started.modSlot 15 fun x =>
    { x with config := { x.config with address := a }, health := { x.health with state := h } }).modSlot 0 fun x =>
    { x with config := { x.config with address := b }, health := { x.health with state := k } }

theorem witness_EnableBySupervise :
    (∃ s : State, s.CanCommand .c ∧ s.NamesSlot .c 15 ∧ s.role .c = .supervise ∧ (s.slot 15).config.address = 0) ∧
      (∃ s : State, s.CanCommand .c ∧ s.NamesSlot .c 15 ∧ s.role .c = .supervise ∧ (s.slot 15).config.address = 62 ∧
        (s.slot 0).health.state ≠ .disabled ∧ (s.slot 0).config.address = 62 ∧ s.AddressesUnique) ∧
      ∀ h, ∃ s : State, s.CanCommand .c ∧ s.NamesSlot .c 15 ∧ s.role .c = .supervise ∧
        (s.slot 15).config.address = 1 ∧ (s.slot 15).health.state = h ∧
        ∀ j, j ≠ 15 → (s.slot j).health.state ≠ .disabled → (s.slot j).config.address ≠ (s.slot 15).config.address := by
  refine ⟨⟨commanding .c 15 started, ⟨⟨rfl, rfl⟩, rfl⟩, rfl, rfl, rfl⟩,
    ⟨commanding .c 15 (twoSlots .disabled 62 .active 62), ⟨⟨rfl, rfl⟩, rfl⟩, rfl, rfl, rfl, by decide, rfl,
      fun h => (by cases h), by decide⟩,
    fun h => ⟨commanding .c 15 (twoSlots h 1 .active 2), ⟨⟨rfl, rfl⟩, rfl⟩, rfl, rfl, rfl, rfl, ?_⟩⟩
  cases h <;> decide

/-- Window A0 QUEUED for slot 15 and window B3 QUEUED for slot 0. -/
def twoQueued (s : State) : State :=
  (s.modWindow .a 0 fun w => { w with slot := 15, state := .queued }).modWindow .b 3 fun w =>
    { w with slot := 0, state := .queued }

/-- The requests of those two windows in the queue. -/
def queued (s : State) : State :=
  { twoQueued s with queue := [⟨.a, 0, 15, .read, 0, 0⟩, ⟨.b, 3, 0, .read, 0, 0⟩] }

theorem queued_window (s : State) (p : Port) (w : Fin 4) : (queued s).window p w = (twoQueued s).window p w := rfl

theorem queued_matches (s : State) (h : s.out = none) : (queued s).RequestsMatchWindows := by
  refine ⟨?_, ?_, fun r hr => ?_⟩
  · intro r hr
    simp only [queued, List.mem_cons, List.not_mem_nil, or_false] at hr
    rcases hr with rfl | rfl
    · simp only [queued_window, twoQueued]
      rw [State.modWindow_window_ne _ _ (by decide), State.modWindow_window_self]
    · simp only [queued_window, twoQueued, State.modWindow_window_self]
  · simp only [queued]; decide
  · have : (queued s).out = s.out := rfl
    rw [this, h] at hr; cases hr

theorem witness_DisableTakesSlotOff :
    (∀ h, ∃ s : State, s.CanCommand .c ∧ s.NamesSlot .c 15 ∧ s.role .c = .supervise ∧ (s.slot 15).health.state = h ∧
        (∀ r ∈ s.queue, r.slot ≠ 15) ∧ s.handed = none ∧ s.engine.exchange = none) ∧
      (∀ l, ∃ s : State, s.CanCommand .c ∧ s.NamesSlot .c 15 ∧ s.role .c = .supervise ∧
        (s.slot 15).health.state ≠ .disabled ∧ s.sched.link = l ∧ s.RequestsMatchWindows ∧ s.handed = none ∧
        (∃ r ∈ s.queue, r.slot = 15 ∧ r.port = .a ∧ r.window = 0) ∧
        ∃ x, s.engine.exchange = some x ∧ x.slot = 15) ∧
      ∀ (l : LinkState) (k : RequestKind) (x : WindowState), ∃ s : State, s.CanCommand .c ∧ s.NamesSlot .c 15 ∧
        s.role .c = .supervise ∧ (s.slot 15).health.state ≠ .disabled ∧ s.sched.link = l ∧
        s.handed = some ⟨k.kind, 15⟩ ∧ s.out = some ⟨.a, 3, 15, k, 0, 0⟩ ∧ (s.window .a 3).state = x := by
  refine ⟨fun h => ⟨commanding .c 15 (twoSlots h 1 .active 2), ⟨⟨rfl, rfl⟩, rfl⟩, rfl, rfl, rfl,
    fun r hr => (by cases hr), rfl, rfl⟩, fun l => ?_, fun l k x => ?_⟩
  · exact ⟨queued { commanding .c 15 (twoSlots .active 1 .active 2) with
      engine := .sending (exchange .cyclic 15 4 []), sched := { Scheduler.reset with link := l } }, ⟨⟨rfl, rfl⟩, rfl⟩,
      rfl, rfl, (by decide : HealthState.active ≠ .disabled), rfl, queued_matches _ rfl, rfl, ⟨_, List.mem_cons_self, rfl, rfl, rfl⟩, _, rfl, rfl⟩
  · exact ⟨{ (commanding .c 15 (twoSlots .active 1 .active 2)).modWindow .a 3 fun w => { w with slot := 15, state := x } with
      sched := { Scheduler.reset with link := l }, handed := some ⟨k.kind, 15⟩, out := some ⟨.a, 3, 15, k, 0, 0⟩ },
      ⟨⟨rfl, rfl⟩, rfl⟩, rfl, rfl, (by decide : HealthState.active ≠ .disabled), rfl, rfl, rfl, rfl⟩

theorem witness_RestartAndClearLatch (h : HealthState) (o : Option Port) (r : Role) (err : Bool) :
    ∃ s : State, s.CanCommand .c ∧ s.NamesSlot .c 15 ∧ s.role .c = r ∧ (s.slot 15).health.state = h ∧
      (s.slot 15).owner = o ∧ (s.slot 15).input.err = err :=
  ⟨withRole .c r (commanding .c 15 (started.modSlot 15 fun x =>
    { x with owner := o, health := { x.health with state := h }, input := { x.input with err := err } })),
    ⟨⟨rfl, rfl⟩, rfl⟩, rfl, rfl, rfl, rfl, rfl⟩

theorem witness_HealthEvidence (h : HealthState) (n limit : Nat) (hl : limit < 256) :
    (∃ (x : Health) (c : LiveConfig), x.state = h ∧ x.consecutive = n ∧ c.suspectLimit.toNat = limit) ∧
      ∃ (x : Health) (c : LiveConfig), x.state = .probing ∧ x.quick = n ∧ x.rounds = n ∧ c.firstQuick.toNat = limit ∧
        c.lockoutRounds.toNat = limit :=
  ⟨⟨{ Health.reset with state := h, consecutive := n }, { LiveConfig.default with suspectLimit := BitVec.ofNat 8 limit },
      rfl, rfl, by simp; omega⟩,
    { Health.reset with state := .probing, quick := n, rounds := n },
    { LiveConfig.default with firstQuick := BitVec.ofNat 8 limit, lockoutRounds := BitVec.ofNat 8 limit }, rfl, rfl, rfl,
    by simp; omega, by simp; omega⟩

/-- For ProbeOutcomes: a PROBING slot in either round, with any class and lengths expected and replied, and either lockout rule. -/
theorem witness_probe_outcomes (k : RoundKind) (n : Nat) (want got : Half) (i o : Byte) (limit : Byte) :
    (∃ (cfg : SlotConfig) (r : Reply) (h : Health), h.state = .probing ∧ cfg.expectedClass = want ∧
        cfg.inputLength = i ∧ cfg.outputLength = o ∧ r.payload.getD 0 0 ++ r.payload.getD 1 0 = got.high ++ got.low ∧
        r.payload.getD 3 0 = i ∧ r.payload.getD 4 0 = o) ∧
      ∃ (c : LiveConfig) (h : Health), h.state = .probing ∧ h.round = k ∧ h.quick = n ∧ h.rounds = n ∧
        c.lockoutRounds = limit :=
  ⟨⟨{ SlotConfig.default with expectedClass := want, inputLength := i, outputLength := o },
      ⟨false, false, false, false, [got.high, got.low, 1, i, o]⟩, { Health.reset with state := .probing }, rfl, rfl, rfl, rfl,
      rfl, rfl, rfl⟩,
    { LiveConfig.default with lockoutRounds := limit },
    { Health.reset with state := .probing, round := k, quick := n, rounds := n }, rfl, rfl, rfl, rfl, rfl⟩

theorem witness_CycleEndWorkOnSlot (h : HealthState) (n : Nat) (x : RecordState) (age : Byte) (updated : Bool) :
    ∃ s : Slot, s.health.state = h ∧ s.health.backoff = n ∧ s.input.state = x ∧ s.input.age = age ∧
      s.input.updated = updated :=
  ⟨{ Slot.reset with
    health := { Health.reset with state := h, backoff := n }
    input := { InputRecord.reset with state := x, age := age, updated := updated } }, rfl, rfl, rfl, rfl, rfl⟩

theorem witness_SlotConfigWriteTaken (r : Role) (h : HealthState) (ptr : BitVec 13) :
    (∃ s : State, s.Stands .c true 0x13 ∧ s.target .c 0x13 = .image (.at ptr) ∧ s.role .c = r ∧
        (s.slot 15).health.state = h) ∧
      ImageLocation.at 0x0F80 = .config 15 .address ∧ ImageLocation.at 0x0F81 = .config 15 .options ∧
      ImageLocation.at 0x0F82 = .config 15 .classLow ∧ ImageLocation.at 0x0F83 = .config 15 .classHigh ∧
      ImageLocation.at 0x0F84 = .config 15 .inputLength ∧ ImageLocation.at 0x0F85 = .config 15 .outputLength ∧
      ImageLocation.at 0x0F86 = .config 15 .pollDivider ∧ ImageLocation.at 0x0F88 = .config 15 (.safe 0) ∧
      ImageLocation.at 0x0F97 = .config 15 (.safe 15) :=
  ⟨⟨withRole .c r (pointing .c true ptr (twoSlots h 1 .disabled 2)), ⟨rfl, rfl⟩, rfl, rfl, rfl⟩, by decide⟩

theorem witness_WindowStores (x : WindowState) (fetch : Bool) (mask : BitVec 4) (a : Byte) :
    (∃ s : State, s.Stands .a true a ∧ (s.window .a 3).state = x ∧ (s.window .a 3).fetch = fetch ∧
        (s.window .a 3).mask = mask) ∧
      ∀ s : State, s.target .a 0x70 = .page (.window 3 .slot) ∧ s.target .a 0x71 = .page (.window 3 .mode) ∧
        s.target .a 0x72 = .page (.window 3 .addressLow) ∧ s.target .a 0x73 = .page (.window 3 .addressHigh) ∧
        s.target .a 0x74 = .page (.window 3 .mask) ∧ s.target .a 0x77 = .page (.window 3 .flags) ∧
        s.target .a 0x78 = .page (.window 3 (.data 0)) ∧ s.target .a 0x7B = .page (.window 3 (.data 3)) :=
  ⟨⟨stand .a true a (window3 x fetch mask started), ⟨rfl, rfl⟩, rfl, rfl, rfl⟩,
    fun _ => ⟨rfl, rfl, rfl, rfl, rfl, rfl, rfl, rfl⟩⟩

theorem witness_WriteTriggerChecks (r : Role) (o : Option Port) (h : HealthState) (x : WindowState) (q : List Request) :
    ∃ s : State, s.Stands .a true 0x7B ∧ s.target .a 0x7B = .page (.window 3 (.data 3)) ∧
      (s.window .a 3).fetch = false ∧ (s.window .a 3).mask.getLsbD 3 = true ∧ (s.window .a 3).state = x ∧
      s.role .a = r ∧ (s.slot (s.window .a 3).slot).owner = o ∧ (s.slot (s.window .a 3).slot).health.state = h ∧
      s.queue = q :=
  ⟨{ stand .a true 0x7B (withRole .a r (window3 x false 8 ((twoSlots h 1 .disabled 0).modSlot 15 fun y =>
    { y with owner := o }))) with queue := q }, ⟨rfl, rfl⟩, rfl, rfl, (by decide : (8 : BitVec 4).getLsbD 3 = true), rfl, rfl, rfl, rfl, rfl⟩

theorem witness_FetchTriggerChecks (h : HealthState) (x : WindowState) (q : List Request) :
    ∃ s : State, s.Stands .a false 0x78 ∧ s.target .a 0x78 = .page (.window 3 (.data 0)) ∧
      (s.window .a 3).fetch = true ∧ (s.window .a 3).state = x ∧
      (s.slot (s.window .a 3).slot).health.state = h ∧ s.queue = q :=
  ⟨{ stand .a false 0x78 (window3 x true 0 (twoSlots h 1 .disabled 0)) with queue := q }, ⟨rfl, rfl⟩, rfl, rfl, rfl, rfl,
    rfl⟩

theorem witness_CancelByWindowState (x : WindowState) :
    ∃ s : State, s.CanCommand .a ∧ (s.command .a).arg0.toNat = (3 : Fin 4).val ∧ (s.window .a 3).state = x :=
  ⟨commanding .a 3 (window3 x true 0 started), ⟨⟨rfl, rfl⟩, rfl⟩, rfl, rfl⟩

theorem witness_GoodReplyEndsWindow (k : RequestKind) (n : Nat) (h : HealthState) (q : List Request) (x : WindowState)
    (mark : Bool) :
    ∃ (s : State) (r : Request), s.out = some r ∧ (s.window r.port r.window).state = x ∧
      (s.window r.port r.window).clearMark = mark ∧ r.kind = k ∧ r.busy = n ∧ (s.slot r.slot).health.state = h ∧
      s.queue = q :=
  ⟨{ (window3 x true 0 (twoSlots h 1 .disabled 0)).modWindow .a 3 fun w => { w with clearMark := mark } with
      out := some ⟨.a, 3, 15, k, 0, n⟩, queue := q }, ⟨.a, 3, 15, k, 0, n⟩, rfl, rfl, rfl, rfl, rfl, rfl, rfl⟩

theorem witness_CaptureRequests (e : PinEdge) (ring : List CaptureRecord) (k : Cursor) (d : Byte) (n : Half) :
    (∃ s : State, s.CanCommand .c ∧ ¬s.HasSubscriber) ∧
      ∃ s : State, s.CanCommand .c ∧ s.HasSubscriber ∧ s.capture.ring = ring ∧ s.config.pinEdge = e ∧
        s.config.timerDivider = d ∧ s.sched.cycle = n ∧ (s.slot 15).health.state = .active ∧
        s.config.eventSet.getLsbD 15 = true := by
  refine ⟨⟨commanding .c 0 started, ⟨⟨rfl, rfl⟩, rfl⟩, ?_⟩,
    { subscribedWith (some k) ring (commanding .c 0 (twoSlots .active 1 .disabled 2)) with
      config := { LiveConfig.default with pinEdge := e, timerDivider := d, eventSet := 0x8000 }
      sched := { Scheduler.reset with cycle := n } },
    ⟨⟨rfl, rfl⟩, rfl⟩, ⟨.a, by simp [subscribedWith, State.modPort, State.port, PerPort.set, PerPort.get]⟩, rfl, rfl, rfl,
    rfl, rfl, (by decide : (0x8000 : BitVec 16).getLsbD 15 = true)⟩
  rintro ⟨p, h⟩
  cases p <;> exact h rfl

theorem witness_CursorCommands (r : CaptureRecord) :
    (∃ s : State, s.CanCommand .a ∧ s.RingSound ∧ (s.port .a).cursor = none) ∧
      (∃ s : State, s.CanCommand .a ∧ s.RingSound ∧ (s.port .a).cursor = some ⟨9, 0⟩) ∧
      ∃ s : State, s.CanCommand .a ∧ s.RingSound ∧ (s.port .a).cursor = some ⟨8, 1⟩ ∧
        s.capture.ring[s.capture.ring.length - 1]? = some r :=
  ⟨⟨commanding .a 0 started, ⟨⟨rfl, rfl⟩, rfl⟩, ⟨by decide, rfl⟩, rfl⟩,
    ⟨commanding .a 0 (subscribedWith (some ⟨9, 0⟩) [] started), ⟨⟨rfl, rfl⟩, rfl⟩, ⟨by decide, rfl⟩, rfl⟩,
    commanding .a 0 (subscribedWith (some ⟨8, 1⟩) [r] started), ⟨⟨rfl, rfl⟩, rfl⟩, ⟨Nat.le_of_ble_eq_true rfl, rfl⟩, rfl,
    rfl⟩

theorem witness_PortClearResetsContext (b : Bool) (x : WindowState) (o : Option Port) (tell : Bool) (r : CaptureRecord) :
    (∃ s : State, s.Settled ∧ s.Stands .a true 0x08 ∧ (s.command .a).inProgress = b ∧ (s.window .a 3).state = x ∧
        (s.slot 15).owner = o ∧ (∃ v, s.store.save = some v ∧ v.issuer = .c ∧ v.tell = tell)) ∧
      (∃ s : State, s.Stands .a true 0x08 ∧ (s.port .a).cursor = none) ∧
      (∃ s : State, s.Stands .a true 0x08 ∧ (s.port .a).cursor ≠ none ∧ s.RingSound ∧ s.capture.ring = [r] ∧
        ∀ q, q ≠ .a → (s.port q).cursor = none) ∧
      ∃ s : State, s.Stands .a true 0x08 ∧ (s.port .a).cursor ≠ none ∧ s.RingSound ∧ s.capture.ring = [r] ∧
        ∃ q, q ≠ .a ∧ (s.port q).cursor ≠ none := by
  refine ⟨⟨({ stand .a true 0x08 (window3 x true 0 ((started.modSlot 15 fun y => { y with owner := o }).modCommand .a
    fun c => { c with inProgress := b })) with store := (saving .body tell).store } : State).settle,
      State.settle_settle _, ⟨rfl, rfl⟩, rfl, rfl, rfl, _, rfl, rfl, rfl⟩,
    ⟨stand .a true 0x08 started, ⟨rfl, rfl⟩, rfl⟩,
    ⟨stand .a true 0x08 (subscribedWith (some ⟨8, 1⟩) [r] started), ⟨rfl, rfl⟩, ?_, ⟨Nat.le_of_ble_eq_true rfl, rfl⟩, rfl,
      fun q hq => ?_⟩,
    stand .a true 0x08 ((subscribedWith (some ⟨8, 1⟩) [r] started).modPort .b fun c => { c with cursor := some ⟨9, 0⟩ }),
      ⟨rfl, rfl⟩, ?_, ⟨Nat.le_of_ble_eq_true rfl, rfl⟩, rfl, .b, by decide, ?_⟩
  · simp [stand, subscribedWith, State.modPort, State.port, PerPort.set, PerPort.get]
  · cases q
    · exact absurd rfl hq
    · rfl
    · rfl
  · simp [stand, subscribedWith, State.modPort, State.port, PerPort.set, PerPort.get]
  · simp [stand, subscribedWith, State.modPort, State.port, PerPort.set, PerPort.get]

/-- The link in a state, with slots 3 and 4 ACTIVE, a plan of slot 4 and an engine. -/
def running (l : LinkState) (e : Engine) : State :=
  { (started.modSlot 3 (active 5)).modSlot 4 (active 6) with
    engine := e
    sched := { Scheduler.reset with link := l, plan := [4], inCycle := true, cycle := 6 } }

/-- In `running`'s configuration slots 3 and 4 are due in cycles 1 and 7. -/
theorem running_due (l : LinkState) (e : Engine) (s : State) (h : s.slots = (running l e).slots) (n : Half)
    (hn : n = 1 ∨ n = 7) : s.dueSlots n = [3, 4] := by
  have hs : ∀ i, s.slot i = (running .stopped .ready).slot i := fun i => by simp only [State.slot, h]; rfl
  simp only [State.dueSlots, hs]
  rcases hn with rfl | rfl <;> decide

theorem witness_LinkStartByState (l : LinkState) (e : Engine) :
    ∃ s : State, s.CanCommand .c ∧ s.role .c = .supervise ∧ s.sched.link = l ∧ s.config.timerDivider = 0 ∧
      s.dueSlots (s.sched.cycle + 1) = [3, 4] ∧ s.engine = e :=
  ⟨commanding .c 0 (running l e), ⟨⟨rfl, rfl⟩, rfl⟩, rfl, rfl, rfl,
    running_due l e _ rfl _ (.inr rfl), rfl⟩

theorem witness_LinkStopCommand (l : LinkState) (e : Engine) (k : Kind) :
    (∃ s : State, s.CanCommand .c ∧ s.role .c = .supervise ∧ s.sched.link = l ∧ s.engine = e ∧ s.handed = none ∧
        s.queue = []) ∧
      ∃ s : State, s.CanCommand .c ∧ s.role .c = .supervise ∧ s.sched.link = .running ∧ s.engine.exchange = none ∧
        s.RequestsMatchWindows ∧ s.handed = some ⟨k, 4⟩ ∧ ∃ r ∈ s.queue, r.port = .b ∧ r.window = 3 := by
  refine ⟨⟨commanding .c 0 (running l e), ⟨⟨rfl, rfl⟩, rfl⟩, rfl, rfl, rfl, rfl, rfl⟩,
    { queued (commanding .c 0 (running .running .ready)) with handed := some ⟨k, 4⟩ }, ⟨⟨rfl, rfl⟩, rfl⟩, rfl, rfl, rfl,
    ?_, rfl, ⟨.b, 3, 0, .read, 0, 0⟩, by simp [queued], rfl, rfl⟩
  exact queued_matches (commanding .c 0 (running .running .ready)) rfl

theorem witness_StoppingEndsAtReport (w : Bool) (b : Bool) :
    ∃ (x : Exchange) (s : State), s.engine = .waiting x false ∧ s.sched.link = .stopping ∧
      s.sched.waiters.get .c = w ∧ (s.command .c).inProgress = b ∧ (s.command .c).code = 0x0F :=
  ⟨exchange .cyclic 3 4 [], { (running .stopping (.waiting (exchange .cyclic 3 4 []) false)).modCommand .c fun c =>
      { c with inProgress := b, code := 0x0F } with
    sched := { Scheduler.reset with link := .stopping, waiters := ⟨false, false, w⟩ } }, rfl, rfl, rfl, rfl, rfl⟩

theorem witness_CycleTimerExpiry (l : LinkState) (b : Bool) :
    (∃ s : State, s.sched.link = l ∧ s.sched.inCycle = b ∧ s.config.timerDivider = 0 ∧
        s.dueSlots (s.sched.cycle + 1) = [3, 4] ∧ s.engine = .ready) ∧
      ∃ s : State, s.sched.link = .running ∧ s.sched.inCycle = false ∧ s.sched.deferred = false ∧
        s.config.timerDivider = 0 ∧ s.dueSlots (s.sched.cycle + 1) = [] ∧ s.queue = [] ∧
        (s.slot 15).health.state = .backoff ∧ (s.slot 15).health.backoff = 1 := by
  refine ⟨⟨{ running l .ready with sched := { Scheduler.reset with link := l, inCycle := b } }, rfl, rfl, rfl,
    running_due l .ready _ rfl _ (.inl rfl), rfl⟩, { (started.modSlot 15 fun x => { x with health := { x.health with state := .backoff, backoff := 1 } }) with
      sched := { Scheduler.reset with link := .running } }, rfl, rfl, rfl, rfl, by decide, rfl, rfl, rfl⟩

theorem witness_RequestFrozenAtBegin (k : RequestKind) :
    ∃ (s : State) (r : Request), s.out = some r ∧ r.kind = k :=
  ⟨{ started with out := some ⟨.a, 0, 0, k, 0x1234, 0⟩ }, _, rfl, rfl⟩

theorem witness_GuardAndSending (rate : BitVec 2) (since : GuardFrom) (h : Option Handed) (x : Exchange) :
    (∃ s : State, s.engine = .quiet rate since ∧ s.handed = h) ∧ ∃ s : State, s.engine = .sending x :=
  ⟨⟨{ started with engine := .quiet rate since, handed := h }, rfl, rfl⟩, { started with engine := .sending x }, rfl⟩

theorem witness_ReceptionGoesOn (x : Exchange) (b : Bool) (i : IdleTimer) :
    (∃ s : State, s.engine = .waiting x b) ∧ (∃ s : State, s.engine = .receiving x i) ∧
      (∃ (y : Exchange) (v : Byte) (s : State), s.engine = .receiving y .stopped ∧ y.received.length + 1 < y.expected ∧
        y.received = [] ∧ y.request.head? = some v) ∧
      ∃ (y : Exchange) (s : State), s.engine = .receiving y .stopped ∧ y.received.length + 1 < y.expected ∧
        y.received ≠ [] :=
  ⟨⟨{ started with engine := .waiting x b }, rfl⟩, ⟨{ started with engine := .receiving x i }, rfl⟩,
    ⟨exchange .cyclic 3 4 [], 0x45, { started with engine := .receiving (exchange .cyclic 3 4 []) .stopped }, rfl,
      by decide, rfl, rfl⟩,
    exchange .cyclic 3 4 [0x45, 0], { started with engine := .receiving (exchange .cyclic 3 4 [0x45, 0]) .stopped }, rfl,
    by decide, by decide⟩

/-- The surroundings of an exchange of slot 3 that ends in a running cycle, in whatever state the engine is. -/
theorem running_surroundings (e : Engine) :
    let s := running .running e
    s.engine = e ∧ s.sched.link = .running ∧ s.sched.discard = false ∧ s.sched.plan = [4] ∧
      (s.slot 4).health.state = .active ∧ (s.slot 3).health.state = .active ∧ 2 ≤ s.config.suspectLimit.toNat ∧
      s.config.eventSet.getLsbD 3 = false :=
  ⟨rfl, rfl, rfl, rfl, rfl, rfl, (by decide : 2 ≤ LiveConfig.default.suspectLimit.toNat),
    (by decide : LiveConfig.default.eventSet.getLsbD 3 = false)⟩

/-- Every event of the statement has its exchange: nothing received, or all but the last byte with a wrong check word. -/
theorem witness_FailedExchangeMakesSuspect (e : Exchange → Engine) :
    (∃ (x : Exchange) (s : State), s.engine = e x ∧ x.received = [] ∧ x.request.head? ≠ some 0x44 ∧ x.request ≠ [] ∧
        x.kind = .cyclic ∧ x.slot = 3 ∧ s = running .running (e x)) ∧
      ∃ (x : Exchange) (s : State), s.engine = e x ∧ 4 ≤ x.expected ∧ x.received.length + 1 = x.expected ∧
        crc ((x.received ++ [0]).take (x.expected - 2)) ≠
          (x.received ++ [0]).getD (x.expected - 2) 0 ++ (x.received ++ [0]).getD (x.expected - 1) 0 ∧
        x.kind = .cyclic ∧ x.slot = 3 ∧ s = running .running (e x) :=
  ⟨⟨exchange .cyclic 3 4 [], _, rfl, by decide +kernel, by decide +kernel, by decide +kernel, rfl, rfl, rfl⟩,
    exchange .cyclic 3 4 [0x45, 0, 0], _, rfl, by decide +kernel, by decide +kernel, by decide +kernel, rfl, rfl, rfl⟩

/-- The surroundings are those of `running_surroundings`. -/
theorem witness_GoodCyclicReplyIsApplied :
    ∃ (v : Byte) (x : Exchange) (s : State), s.engine = .receiving x .stopped ∧ 4 ≤ x.expected ∧
      x.received.length + 1 = x.expected ∧
      crc ((x.received ++ [v]).take (x.expected - 2)) =
        (x.received ++ [v]).getD (x.expected - 2) 0 ++ (x.received ++ [v]).getD (x.expected - 1) 0 ∧
      x.kind = .cyclic ∧ x.slot = 3 ∧ s = running .running (.receiving x .stopped) :=
  ⟨(crc [0x45, 0x07]).low, exchange .cyclic 3 4 [0x45, 0x07, (crc [0x45, 0x07]).high], _, rfl, by decide +kernel,
    by decide +kernel, by decide +kernel, rfl, rfl, rfl⟩

theorem witness_DiscardMarkHidesReport (k : Kind) :
    ∃ (x : Exchange) (s : State), s.engine = .waiting x false ∧ x.kind = k ∧ s.sched.link = .running ∧
      s.sched.discard = true ∧ s.sched.plan = [4] ∧ (s.slot 4).health.state = .active :=
  ⟨exchange k 3 4 [], (running .running (.waiting (exchange k 3 4 []) false)).modSched fun c =>
    { c with discard := true }, rfl, rfl, rfl, rfl, rfl, rfl⟩

/-! ### Witnesses of the clauses about every event that decides an exchange -/

/-- Every failure decides an exchange of every kind, in every state whose engine stands right for it. -/
theorem failure_decided (k : Kind) (f : LinkFailure) :
    ∃ (c : Instr) (x : Exchange) (e : Engine), x.kind = k ∧ x.slot = 3 ∧
      ∀ s : State, s.engine = e → s.Decides c x (.failed f) := by
  cases f
  · exact ⟨.responseTimeout .high, exchange k 3 4 [], _, rfl, rfl, fun s h => .inl ⟨rfl, .inl ⟨rfl, h⟩⟩⟩
  · exact ⟨.replyByte 0 .low, exchange k 3 4 [0x45], _, rfl, rfl, fun s h => .inr (.inr ⟨h, 0, .inl ⟨rfl, rfl⟩⟩)⟩
  · exact ⟨.replyByte 0 .high, exchange k 3 4 [], _, rfl, rfl,
      fun s h => .inr (.inr ⟨h, 0, .inr (.inl ⟨rfl, rfl, (by decide : [(0x45 : Byte), 0x2A].head? ≠ some 0),
        (by decide : [(0x45 : Byte), 0x2A] ≠ []), rfl⟩)⟩)⟩
  · exact ⟨.idleTimeout .high, exchange k 3 4 [0x45], _, rfl, rfl, fun s h => .inr (.inl ⟨rfl, .inl ⟨rfl, h⟩⟩)⟩

/-- A good reply with EVT decides an exchange of every kind. -/
theorem success_decided (k : Kind) :
    ∃ (c : Instr) (x : Exchange) (y : Reply) (e : Engine), x.kind = k ∧ x.slot = 3 ∧ y.evt = true ∧
      ∀ s : State, s.engine = e → s.Decides c x (.success y) := by
  refine ⟨.replyByte (crc [0x45, 0x07]).low .high, exchange k 3 4 [0x45, 0x07, (crc [0x45, 0x07]).high], _, _, rfl, rfl, ?_,
    fun s h => .inr (.inr ⟨h, _, .inr (.inr ⟨rfl, ?_, ?_, .inl ⟨?_, rfl⟩⟩)⟩)⟩
  · simp only [State.replyOf, exchange, List.cons_append, List.getD_cons_succ, List.getD_cons_zero]
    decide
  · exact Nat.le_refl 4
  · rfl
  · exact (by decide +kernel : crc [0x45, 0x07] = (crc [0x45, 0x07]).high ++ (crc [0x45, 0x07]).low)

/-- RUNNING with slot 3 in a health state, the discard mark, a record of slot 3 out for window A3, and no subscriber or one. -/
def deciding (h : HealthState) (mark : Bool) (x : WindowState) (k : Option Cursor) (e : Engine) : State :=
  { subscribedWith k [] ((window3 x true 0 started).modSlot 3 fun y => { y with health := { y.health with state := h } }) with
    engine := e
    out := some ⟨.a, 3, 3, .read, 0, 0⟩
    config := { LiveConfig.default with eventSet := 0x0008 }
    sched := { Scheduler.reset with link := .running, inCycle := true, discard := mark } }

/-- For TurnFollowsReport, ReportReachesWindow and DiscardMarkHidesEveryReport. -/
theorem witness_reports (k : Kind) (h : HealthState) (mark : Bool) (w : WindowState) :
    (∀ f, ∃ (c : Instr) (x : Exchange) (s : State), s.Decides c x (.failed f) ∧ x.kind = k ∧ s.sched.link = .running ∧
        s.sched.discard = mark ∧ (s.slot x.slot).health.state = h ∧
        ∃ r, s.out = some r ∧ (s.window r.port r.window).state = w) ∧
      ∃ (c : Instr) (x : Exchange) (y : Reply) (s : State), s.Decides c x (.success y) ∧ x.kind = k ∧
        s.sched.link = .running ∧ s.sched.discard = mark ∧ (s.slot x.slot).health.state = h ∧
        ∃ r, s.out = some r ∧ (s.window r.port r.window).state = w := by
  refine ⟨fun f => ?_, ?_⟩
  · obtain ⟨c, x, e, hk, hi, hd⟩ := failure_decided k f
    exact ⟨c, x, deciding h mark w none e, hd _ rfl, hk, rfl, rfl, hi ▸ rfl, _, rfl, rfl⟩
  · obtain ⟨c, x, y, e, hk, hi, _, hd⟩ := success_decided k
    exact ⟨c, x, y, deciding h mark w none e, hd _ rfl, hk, rfl, rfl, hi ▸ rfl, _, rfl, rfl⟩

/-- For ReportEndsStopping: every outcome of every kind, with and without the discard mark, and the window of the record out in any
state. -/
theorem witness_reports_in_stopping (k : Kind) (h : HealthState) (mark : Bool) (w : WindowState) :
    (∀ f, ∃ (c : Instr) (x : Exchange) (s : State), s.Decides c x (.failed f) ∧ x.kind = k ∧ s.sched.link = .stopping ∧
        s.sched.discard = mark ∧ s.handed = none ∧ (s.slot x.slot).health.state = h ∧
        ∃ r, s.out = some r ∧ (s.window r.port r.window).state = w) ∧
      ∃ (c : Instr) (x : Exchange) (y : Reply) (s : State), s.Decides c x (.success y) ∧ x.kind = k ∧
        s.sched.link = .stopping ∧ s.sched.discard = mark ∧ s.handed = none ∧ (s.slot x.slot).health.state = h ∧
        ∃ r, s.out = some r ∧ (s.window r.port r.window).state = w := by
  refine ⟨fun f => ?_, ?_⟩
  · obtain ⟨c, x, e, hk, hi, hd⟩ := failure_decided k f
    exact ⟨c, x, (deciding h mark w none e).modSched fun c => { c with link := .stopping }, hd _ rfl, hk, rfl, rfl, rfl,
      hi ▸ rfl, _, rfl, rfl⟩
  · obtain ⟨c, x, y, e, hk, hi, _, hd⟩ := success_decided k
    exact ⟨c, x, y, (deciding h mark w none e).modSched fun c => { c with link := .stopping }, hd _ rfl, hk, rfl, rfl, rfl,
      hi ▸ rfl, _, rfl, rfl⟩

/-- For GoodReplyRestoresSuspect. -/
theorem witness_good_reply_of_suspect :
    ∃ (c : Instr) (x : Exchange) (y : Reply) (s : State), s.Decides c x (.success y) ∧ x.kind = .cyclic ∧
      s.sched.link = .running ∧ s.sched.discard = false ∧ (s.slot x.slot).health.state = .suspect ∧
      s.config.eventSet.getLsbD x.slot.val = false := by
  obtain ⟨c, x, y, e, hk, hi, _, hd⟩ := success_decided .cyclic
  exact ⟨c, x, y, { deciding .suspect false .idle none e with config := LiveConfig.default }, hd _ rfl, hk, rfl, rfl,
    hi ▸ rfl, hi ▸ (by decide : LiveConfig.default.eventSet.getLsbD 3 = false)⟩

/-- For ReplyTakesStationCapture. -/
theorem witness_station_capture (h : HealthState) (k : Cursor) :
    ∀ o ∈ [none, some k], ∃ (c : Instr) (x : Exchange) (y : Reply) (s : State), s.Decides c x (.success y) ∧
      x.kind = .cyclic ∧ s.sched.link = .running ∧ s.sched.discard = false ∧ (s.slot x.slot).health.state = h ∧
      y.evt = true ∧ s.config.eventSet.getLsbD x.slot.val = true ∧ (s.port .a).cursor = o := by
  intro o _
  obtain ⟨c, x, y, e, hk, hi, hy, hd⟩ := success_decided .cyclic
  exact ⟨c, x, y, deciding h false .idle o e, hd _ rfl, hk, rfl, rfl, hi ▸ rfl, hy,
    hi ▸ (by decide : (0x0008 : BitVec 16).getLsbD 3 = true), rfl⟩

/-- For CycleStartTakesTimerCapture: divider 5 and cycle 4, divider 1 and the turn of the cycle number. -/
theorem witness_timer_capture (o : Option Cursor) :
    ∀ d ∈ [((5 : Byte), (4 : Half)), (1, 0xFFFF)], ∃ s : State, s.sched.link = .running ∧ s.sched.inCycle = false ∧
      s.config.timerDivider ≠ 0 ∧ (s.sched.cycle + 1).toNat % s.config.timerDivider.toNat = 0 ∧ (s.port .a).cursor = o := by
  intro d hd
  have h : d.1 ≠ 0 ∧ (d.2 + 1).toNat % d.1.toNat = 0 := by
    simp only [List.mem_cons, List.not_mem_nil, or_false] at hd
    rcases hd with rfl | rfl <;> decide
  exact ⟨{ subscribedWith o [] started with
    config := { LiveConfig.default with timerDivider := d.1 }
    sched := { Scheduler.reset with link := .running, cycle := d.2 } }, rfl, rfl, h.1, h.2, rfl⟩

/-- For QueueHeadTakenAfterReport. -/
theorem witness_queue_head (k : RequestKind) :
    ∃ (x : Exchange) (r : Request) (s : State), s.engine = .waiting x false ∧ x.kind = .cyclic ∧
      s.sched.link = .running ∧ s.sched.discard = false ∧ (s.slot x.slot).health.state = .active ∧
      2 ≤ s.config.suspectLimit.toNat ∧ s.sched.plan = [] ∧ s.queue = [r] ∧ r.kind = k ∧
      s.sched.acyclic < s.sched.allowance :=
  ⟨exchange .cyclic 3 4 [], ⟨.a, 3, 3, k, 0, 0⟩,
    { (running .running (.waiting (exchange .cyclic 3 4 []) false)).modSched fun c => { c with plan := [], allowance := 1 } with
      queue := [⟨.a, 3, 3, k, 0, 0⟩] }, rfl, rfl, rfl, rfl, rfl, (by decide : 2 ≤ LiveConfig.default.suspectLimit.toNat),
    rfl, rfl, rfl, Nat.zero_lt_one⟩

/-- The image address of a setting (11.3.4). -/
def settingAddress (g : Global) : BitVec 13 := 0x1210 + BitVec.ofNat 13 (Global.all.idxOf g)

theorem witness_SettingWrites (g : Global) (r : Role) (l : LinkState) :
    ∃ s : State, s.Stands .c true 0x13 ∧ s.target .c 0x13 = .image (.setting g) ∧ s.role .c = r ∧ s.sched.link = l := by
  refine ⟨{ withRole .c r (pointing .c true (settingAddress g) started) with
    sched := { Scheduler.reset with link := l } }, ⟨rfl, rfl⟩, ?_, rfl, rfl⟩
  have : ImageLocation.at (settingAddress g) = .setting g := by cases g <;> decide
  rw [← this]; rfl

theorem witness_SaveConfigStartsSave :
    (∃ s : State, s.CanCommand .c ∧ s.role .c = .supervise ∧ s.store.save = none) ∧
      ∃ s : State, s.CanCommand .c ∧ s.role .c = .supervise ∧ s.store.save ≠ none :=
  ⟨⟨commanding .c 0 started, ⟨⟨rfl, rfl⟩, rfl⟩, rfl, rfl⟩,
    { commanding .c 0 started with store := (saving .erase true).store }, ⟨⟨rfl, rfl⟩, rfl⟩, rfl, by simp [saving]⟩

theorem witness_SaveRunsToCompletion (phase : SavePhase) (tell : Bool) :
    (∃ (s : State) (v : Save), s.StoreSound ∧ s.store.save = some v ∧ v.phase = phase ∧ v.tell = tell ∧
        (s.command v.issuer).inProgress = true ∧ (s.command v.issuer).code = 0x10) ∧
      State.reset.saveImage.getD 2 0 ≠ 0 ∧ State.reset.saveImage.getD 1023 0 ≠ State.reset.saveImage.getD 1023 0 + 1 ∧
      State.reset.saveImage.length = 1024 :=
  ⟨⟨saving phase tell, _, saving_sound phase tell, rfl, rfl, rfl, rfl, rfl⟩, by decide +kernel⟩

/-- For BodyReadsBack and the body's case of SaveCompletes: no cell, cell 2, and cells 2 and 1023 with a byte of their own, cell 2
named twice with the image's byte first, and a cell that is not the body's. -/
theorem witness_misread (tell : Bool) (b : Byte) (h : b ≠ State.reset.saveImage.getD 1023 0) :
    (∃ s : State, s.StoreSound ∧ s.store.save = some ⟨State.reset.saveImage, .body, .c, tell⟩ ∧
        (s.command .c).inProgress = true ∧ (s.command .c).code = 0x10) ∧
      (∀ misread : List Host.Cell, ∃ held : Nat → Byte,
        ∀ a, held a = (misread.lookup a).getD (State.reset.saveImage.getD a 0)) ∧
      (([] : List Host.Cell).lookup 2 = none) ∧
      (([(2, 0)] : List Host.Cell).lookup 2 = some 0 ∧ State.reset.saveImage.getD 2 0 ≠ 0) ∧
      (([(2, 0), (1023, b)] : List Host.Cell).lookup 1023 = some b ∧ State.reset.saveImage.getD 1023 0 ≠ b) ∧
      ((([(2, State.reset.saveImage.getD 2 0), (2, 0)] : List Host.Cell).lookup 2) =
        some (State.reset.saveImage.getD 2 0)) ∧
      ((([(1024, 0)] : List Host.Cell).lookup 1023) = none) :=
  ⟨⟨saving .body tell, saving_sound .body tell, rfl, rfl, rfl⟩, fun _ => ⟨_, fun _ => rfl⟩, rfl,
    ⟨rfl, by decide +kernel⟩, ⟨rfl, fun e => h e.symm⟩, rfl, rfl⟩

/-! ### Witnesses of the invariants: a state that has the invariant not emptily, and a step from it -/

theorem witness_StepKeepsStoreSound :
    ∃ (s t : State), s.StoreSound ∧ s.store.save ≠ none ∧ step s = .next t :=
  ⟨{ saving .body true with pending := [.saveBodyDone []] }, _, saving_sound .body true, by simp [saving], rfl⟩

theorem witness_StepKeepsConfigInRange : ∃ (s t : State), s.ConfigInRange ∧ step s = .next t :=
  ⟨{ State.reset with pending := [.storeLoadDone] }, _, reset_in_range, rfl⟩

theorem witness_StepKeepsQueueSound :
    ∃ (s t : State), s.QueueBounded ∧ s.QueueLinked ∧ s.queue ≠ [] ∧ step s = .next t :=
  ⟨{ queued (twoSlots .active 1 .suspect 2) with pending := [.cancel .a] }, _, Nat.le_of_ble_eq_true rfl,
    ⟨fun h => (by cases h), by simp only [queued]; decide⟩, by simp [queued], rfl⟩

theorem witness_StepKeepsRequestsMatchWindows :
    ∃ (s t : State), s.RequestsMatchWindows ∧ s.queue ≠ [] ∧ step s = .next t :=
  ⟨{ queued (twoSlots .active 1 .suspect 2) with pending := [.cancel .a] }, _,
    queued_matches (twoSlots .active 1 .suspect 2) rfl, by simp [queued], rfl⟩

/-- A record out with its READ at the engine: pending in QUIET, or in flight. -/
def outFor (x : WindowState) (h : Option Handed) (e : Engine) : State :=
  { window3 x true 0 (twoSlots .active 1 .disabled 0) with
    out := some ⟨.a, 3, 15, .read, 0, 0⟩
    handed := h
    engine := e
    sched := { Scheduler.reset with link := .running, inCycle := true } }

theorem outFor_sound {x : WindowState} {h : Option Handed} {e : Engine} (hx : x = .inFlight ∨ x = .cancelling)
    (he : (h = some ⟨.read, 15⟩ ∧ ∃ r g, e = .quiet r g) ∨
      h = none ∧ ∃ y, e.exchange = some y ∧ y.kind = .read ∧ y.slot = 15) : (outFor x h e).RequestsSound := by
  have hw (p : Port) (w : Fin 4) (hb : ((outFor x h e).window p w).state ≠ .idle) : p = .a ∧ w = 3 := by
    by_contra hn
    apply hb
    have : (outFor x h e).window p w = (twoSlots .active 1 .disabled 0).window p w := by
      show (window3 x true 0 (twoSlots .active 1 .disabled 0)).window p w = _
      exact State.modWindow_window_ne _ _ fun hp hw => hn ⟨hp, hw⟩
    rw [this]
    clear this hn hb
    cases p <;> revert w <;> decide
  refine ⟨⟨fun r hr => (by cases hr), List.nodup_nil, fun r hr => ?_⟩, fun p w => ⟨fun hq => ?_, fun hf => ?_⟩,
    ⟨fun k i hk ha => ?_, fun r hr => ?_⟩, fun hh => ?_, fun _ => rfl, fun hl => (by cases hl), fun hr => (by cases hr)⟩
  · cases hr
    exact hx
  · obtain ⟨rfl, rfl⟩ := hw p w (by rw [hq]; decide)
    rcases hx with rfl | rfl <;> cases hq
  · obtain ⟨rfl, rfl⟩ := hw p w (by rcases hf with hf | hf <;> rw [hf] <;> decide)
    exact ⟨_, rfl, rfl, rfl⟩
  · rcases he with ⟨rfl, r, g, rfl⟩ | ⟨rfl, y, hy, hk', hi⟩
    · rcases ha with ha | ⟨y, hy, _⟩
      · cases ha
        exact ⟨_, rfl, rfl, rfl⟩
      · cases hy
    · rcases ha with ha | ⟨z, hz, rfl, rfl⟩
      · cases ha
      · obtain rfl : y = z := Option.some.inj (hy.symm.trans hz)
        exact ⟨_, rfl, hk'.symm, hi.symm⟩
  · cases hr
    rcases he with ⟨rfl, _⟩ | ⟨_, y, hy, hk, hi⟩
    · exact .inl rfl
    · exact .inr ⟨y, hy, hk, hi⟩
  · rcases he with ⟨_, hq⟩ | ⟨rfl, _⟩
    · exact hq
    · exact absurd rfl hh

/-- A QUEUED window, a READ pending at the engine, and one in flight for an IN_FLIGHT and a CANCELLING window, each with a step. -/
theorem witness_StepKeepsRequestsSound :
    (∃ (s t : State), s.RequestsSound ∧ s.queue ≠ [] ∧ step s = .next t) ∧
      (∃ (s t : State), s.RequestsSound ∧ s.out ≠ none ∧ s.handed ≠ none ∧ step s = .next t) ∧
      ∀ x : WindowState, x = .inFlight ∨ x = .cancelling →
        ∃ (s t : State), s.RequestsSound ∧ s.out ≠ none ∧ s.engine.exchange ≠ none ∧ step s = .next t := by
  refine ⟨⟨{ queued (twoSlots .active 1 .suspect 2) with pending := [.cancel .a] }, _,
      ⟨queued_matches (twoSlots .active 1 .suspect 2) rfl, fun p w => ⟨fun h => ?_, fun h => ?_⟩,
        ⟨fun k i _ ha => ?_, fun r hr => (by cases hr)⟩, fun h => absurd rfl h, ?_, fun _ => rfl, fun h => (by cases h)⟩,
      by simp [queued], rfl⟩,
    ⟨{ outFor .inFlight (some ⟨.read, 15⟩) (.quiet 0 .quietEntry) with pending := [.guardMet] }, _,
      outFor_sound (.inl rfl) (.inl ⟨rfl, _, _, rfl⟩), by simp [outFor], by simp [outFor], rfl⟩,
    fun x hx => ⟨{ outFor x none (.waiting (exchange .read 15 8 []) false) with pending := [.responseTimeout .high] }, _,
      outFor_sound hx (.inr ⟨rfl, _, rfl, rfl, rfl⟩), by simp [outFor], by simp [outFor, Engine.exchange], rfl⟩⟩
  · change ((twoQueued (twoSlots .active 1 .suspect 2)).window p w).state = .queued at h
    show ∃ r ∈ [(⟨.a, 0, 15, .read, 0, 0⟩ : Request), ⟨.b, 3, 0, .read, 0, 0⟩], r.port = p ∧ r.window = w
    revert w
    cases p <;> decide
  · change ((twoQueued (twoSlots .active 1 .suspect 2)).window p w).state = .inFlight ∨
      ((twoQueued (twoSlots .active 1 .suspect 2)).window p w).state = .cancelling at h
    exfalso
    revert w
    cases p <;> decide
  · rcases ha with ha | ⟨y, hy, _⟩
    · cases ha
    · cases hy
  · rintro (h | h) <;> exact absurd rfl h

theorem witness_StepKeepsRingSound (r : CaptureRecord) :
    ∃ (s t : State), s.RingSound ∧ s.capture.ring = [r] ∧ step s = .next t :=
  ⟨{ subscribedWith (some ⟨8, 1⟩) [r] started with pending := [.advance .a] }, _, ⟨Nat.le_of_ble_eq_true rfl, rfl⟩, rfl,
    rfl⟩

theorem witness_StepKeepsOwnersAndAddresses :
    (∃ (s t : State), s.OwnersDrive ∧ (s.slot 15).owner = some .c ∧ step s = .next t) ∧
      ∃ (s t : State), s.AddressesUnique ∧ (s.slot 0).health.state = .suspect ∧ (s.slot 15).health.state = .active ∧
        step s = .next t :=
  ⟨⟨{ started.modSlot 15 fun x => { x with owner := some .c } with pending := [.claim .a] }, _,
      fun _ p _ => ⟨rfl, by cases p <;> decide⟩, rfl, rfl⟩,
    { twoSlots .active 62 .suspect 1 with pending := [.cycleTimerExpiry] }, _, ⟨fun h => (by cases h), by decide⟩, rfl, rfl,
    rfl⟩

theorem witness_StepKeepsRecordsFollowHealth :
    ∃ (s t : State), s.RecordsFollowHealth ∧ (s.slot 15).input.state = .fresh ∧ step s = .next t :=
  ⟨{ (twoSlots .active 62 .suspect 1).modSlot 15 fun x => { x with input := { x.input with state := .fresh } } with
    pending := [.cycleTimerExpiry] }, _, by unfold State.RecordsFollowHealth; decide, rfl, rfl⟩

end Sys2Proof.Tests
end

section
/-! SUPPORT. RELEASE, REVOKE and OUTPUT_BYTE_WRITE (R83 to R87): what each answers, case by case, and the statements
ReleaseAndRevoke and OutputByteWriteBuildsStage. -/

namespace Sys2Proof.Machine.State

/-! ### Updates of one part by functions that agree on it -/

theorem modSlot_congr {s : State} {i : Fin 16} {f g : Slot → Slot} (h : f (s.slot i) = g (s.slot i)) :
    s.modSlot i f = s.modSlot i g := by
  simp only [modSlot, h]

theorem modPort_congr {s : State} {p : Port} {f g : PortContext → PortContext} (h : f (s.port p) = g (s.port p)) :
    s.modPort p f = s.modPort p g := by
  simp only [modPort, h]

/-! ### The end of a claim -/

/-- A write of CMD leaves ARG0, so the slot it names stays (R146). -/
theorem NamesSlot.modCommand_code {s : State} {p : Port} {i : Fin 16} (code : Byte) (h : s.NamesSlot p i) :
    (s.modCommand p fun c => { c with code := code }).NamesSlot p i := by
  simpa [NamesSlot] using h

/-- An owner goes from a slot, the policy left open (R84). -/
theorem modSlot_release (s : State) (i : Fin 16) :
    s.modSlot i (·.release) =
      s.modSlot i fun x =>
        { x with
          owner := none
          output := if x.config.releaseSafe then { x.output with committed := x.config.safeOutput } else x.output } :=
  modSlot_congr (Slot.release_eq _)

/-- Policy HOLD keeps the committed output (R84). -/
theorem modSlot_release_hold {s : State} {i : Fin 16} (h : (s.slot i).config.releaseSafe = false) :
    s.modSlot i (·.release) = s.modSlot i fun x => { x with owner := none } :=
  modSlot_congr (by simp [Slot.release_eq, h])

/-- Policy SAFE loads the safe output (R84). -/
theorem modSlot_release_safe {s : State} {i : Fin 16} (h : (s.slot i).config.releaseSafe = true) :
    s.modSlot i (·.release) =
      s.modSlot i fun x => { x with owner := none, output := { x.output with committed := x.config.safeOutput } } :=
  modSlot_congr (by simp [Slot.release_eq, h])

/-- A REVOKE's part in the former owner's port leaves every command slot alone, the issuing port's too. -/
theorem claimLost_modCommand (s : State) (p q : Port) (i : Fin 16) (g : CommandSlot → CommandSlot) :
    (s.modCommand p g).claimLost q i = (s.claimLost q i).modCommand p g := by
  rw [claimLost_eq, claimLost_eq]
  exact modPort_modCommand _ _ _ _ _ (fun _ _ => rfl) (fun _ => rfl)

/-- RELEASE by the owner (R83). -/
theorem releaseAnswer_owner {s : State} {p : Port} {i : Fin 16} (hi : s.NamesSlot p i)
    (ho : (s.slot i).owner = some p) :
    s.releaseAnswer p = ⟨s.modSlot i (·.release), .done, (s.slot i).config.releaseDetail⟩ := by
  rw [releaseAnswer, withSlot_names _ hi, if_pos ho]

/-- RELEASE by any other port (R83). -/
theorem releaseAnswer_not_owner {s : State} {p : Port} {i : Fin 16} (hi : s.NamesSlot p i)
    (ho : (s.slot i).owner ≠ some p) : s.releaseAnswer p = ⟨s, .notOwner, ownerCode (s.slot i).owner⟩ := by
  rw [releaseAnswer, withSlot_names _ hi, if_neg ho]

/-- A SUPERVISE port's REVOKE passes the role and index checks (R85). -/
theorem revokeAnswer_supervise {s : State} {p : Port} {i : Fin 16} (hi : s.NamesSlot p i) (hr : s.role p = .supervise) :
    s.revokeAnswer p = s.revokeSlot i := by
  simp [revokeAnswer, checkRole, supervises, hr, withSlot_names _ hi]

theorem revokeAnswer_unowned {s : State} {p : Port} {i : Fin 16} (hi : s.NamesSlot p i) (hr : s.role p = .supervise)
    (ho : (s.slot i).owner = none) : s.revokeAnswer p = ⟨s, .done, 0⟩ := by
  simp [revokeAnswer_supervise hi hr, revokeSlot, ho]

theorem revokeAnswer_owned {s : State} {p q : Port} {i : Fin 16} (hi : s.NamesSlot p i) (hr : s.role p = .supervise)
    (ho : (s.slot i).owner = some q) :
    s.revokeAnswer p =
      ⟨(s.modSlot i (·.release)).claimLost q i, .done, (s.slot i).config.releaseDetail⟩ := by
  simp [revokeAnswer_supervise hi hr, revokeSlot, ho]

theorem exec_release_owner {s : State} {p : Port} {i : Fin 16} (hc : s.CanCommand p) (hi : s.NamesSlot p i)
    (ho : (s.slot i).owner = some p) :
    exec (.release p) s =
      .next ((s.modSlot i (·.release)).commandDone p 0x02 .done (s.slot i).config.releaseDetail) :=
  cmdWrite_changed hc (by rw [releaseAnswer_owner (hi.modCommand_code _) ho, modSlot_modCommand, modCommand_slot])

theorem exec_release_not_owner {s : State} {p : Port} {i : Fin 16} (hc : s.CanCommand p) (hi : s.NamesSlot p i)
    (ho : (s.slot i).owner ≠ some p) :
    exec (.release p) s = .next (s.commandDone p 0x02 .notOwner (ownerCode (s.slot i).owner)) :=
  cmdWrite_unchanged hc (by rw [releaseAnswer_not_owner (hi.modCommand_code _) ho, modCommand_slot])

theorem exec_revoke_unowned {s : State} {p : Port} {i : Fin 16} (hc : s.CanCommand p) (hi : s.NamesSlot p i)
    (hr : s.role p = .supervise) (ho : (s.slot i).owner = none) :
    exec (.revoke p) s = .next (s.commandDone p 0x03 .done 0) :=
  cmdWrite_unchanged hc (by rw [revokeAnswer_unowned (hi.modCommand_code _) hr ho])

theorem exec_revoke_owned {s : State} {p q : Port} {i : Fin 16} (hc : s.CanCommand p) (hi : s.NamesSlot p i)
    (hr : s.role p = .supervise) (ho : (s.slot i).owner = some q) :
    exec (.revoke p) s =
      .next (((s.modSlot i (·.release)).claimLost q i).commandDone p 0x03 .done (s.slot i).config.releaseDetail) :=
  cmdWrite_changed hc (by
    rw [revokeAnswer_owned (hi.modCommand_code _) hr ho, modSlot_modCommand, claimLost_modCommand, modCommand_slot])

end Sys2Proof.Machine.State

namespace Sys2Proof.Machine

/-- The RELEASE half of O21: under each policy by the owner (R83, R84), refused to any other port. -/
theorem releaseEndsClaim : Clause.ReleaseEndsClaim := by
  intro p i s hc hi
  refine ⟨fun ho hold => ?_, fun ho safe => ?_, fun ho => ?_, fun q hq ho => ?_⟩
  · rw [State.exec_release_owner hc hi ho, State.modSlot_release_hold hold, SlotConfig.releaseDetail, hold]
    rfl
  · rw [State.exec_release_owner hc hi ho, State.modSlot_release_safe safe, SlotConfig.releaseDetail, safe]
    rfl
  · rw [State.exec_release_not_owner hc hi (by simp [ho]), ho]
    rfl
  · rw [State.exec_release_not_owner hc hi (by simp [ho, hq]), ho]
    rfl

/-- The REVOKE half of O21: the former owner may be the port that issued it (R86). -/
theorem revokeTakesOutputs : Clause.RevokeTakesOutputs := by
  intro p i s hc hi hr
  refine ⟨State.exec_revoke_unowned hc hi hr, fun q ho => ?_⟩
  rw [State.exec_revoke_owned hc hi hr ho, State.modSlot_release, State.claimLost_eq, SlotConfig.releaseDetail]

/-- Settles O21, by what RELEASE and REVOKE answer in each case of the slot's owner. -/
theorem releaseAndRevoke : Obligations.ReleaseAndRevoke := ⟨releaseEndsClaim, revokeTakesOutputs⟩

namespace State

/-! ### A write to an output byte -/

theorem stageByte_refused {s : State} {p : Port} {i k : Fin 16} (v : Byte)
    (h : s.role p = .observe ∨ (s.slot i).config.outputLength.toNat ≤ k.val) : s.stageByte p i k v = s.refuse p := by
  unfold stageByte
  split
  · rfl
  · next hr => exact if_pos (h.resolve_left hr)

/-- An empty stage is loaded with the committed output before the byte is written (R87). -/
theorem stageByte_empty {s : State} {p : Port} {i k : Fin 16} (v : Byte) (hr : s.role p ≠ .observe)
    (hk : k.val < (s.slot i).config.outputLength.toNat) (hg : (s.port p).stage = none) :
    s.stageByte p i k v = s.modPort p fun c => { c with stage := some ⟨i, (s.slot i).output.committed.set k v⟩ } := by
  rw [stageByte, if_neg hr, if_neg (Nat.not_le.mpr hk)]
  exact modPort_congr (by simp only [hg]; rfl)

/-- A stage of the slot is kept and its byte written (R87). -/
theorem stageByte_same_slot {s : State} {p : Port} {i k : Fin 16} {g : Stage} (v : Byte) (hr : s.role p ≠ .observe)
    (hk : k.val < (s.slot i).config.outputLength.toNat) (hg : (s.port p).stage = some g) (hi : g.slot = i) :
    s.stageByte p i k v = s.modPort p fun c => { c with stage := some ⟨i, g.bytes.set k v⟩ } := by
  rw [stageByte, if_neg hr, if_neg (Nat.not_le.mpr hk)]
  exact modPort_congr (by simp only [hg, if_pos hi]; rfl)

/-- A stage of another slot is discarded, and the stage loaded anew (R87). -/
theorem stageByte_other_slot {s : State} {p : Port} {i k : Fin 16} {g : Stage} (v : Byte) (hr : s.role p ≠ .observe)
    (hk : k.val < (s.slot i).config.outputLength.toNat) (hg : (s.port p).stage = some g) (hi : g.slot ≠ i) :
    s.stageByte p i k v =
      s.modPort p fun c =>
        { c with stage := some ⟨i, (s.slot i).output.committed.set k v⟩, stageDiscarded := true } := by
  rw [stageByte, if_neg hr, if_neg (Nat.not_le.mpr hk)]
  exact modPort_congr (by simp only [hg, if_neg hi]; rfl)

theorem exec_outputByteWrite {s : State} {p : Port} {a : Byte} {i k : Fin 16} (v : Byte) (h : s.Stands p true a)
    (ht : s.target p a = .image (.output i k)) :
    exec (.outputByteWrite p v) s = .next ((s.stageByte p i k v).accessDone p true a 0) := by
  have mine : (s.target p a).isOutput = true := by rw [ht]; rfl
  calc exec (.outputByteWrite p v) s
      = .next ((storeImage p v (s.target p a) s).accessDone p true a 0) := writeAccess_mine h mine
    _ = .next ((s.stageByte p i k v).accessDone p true a 0) := by rw [ht]; rfl

end State

/-- Settles O22, by what the write does to the port's stage in each of R87's cases. -/
theorem outputByteWriteBuildsStage : Obligations.OutputByteWriteBuildsStage := by
  intro p v a i k s h ht
  rw [State.exec_outputByteWrite v h ht]
  refine ⟨fun refused => ?_, fun hr hk => ⟨fun hg => ?_, fun g hg hi => ?_, fun g hg hi => ?_⟩⟩
  · rw [State.stageByte_refused v refused]
    rfl
  · rw [State.stageByte_empty v hr hk hg]
  · rw [State.stageByte_same_slot v hr hk hg hi]
  · rw [State.stageByte_other_slot v hr hk hg hi]

end Sys2Proof.Machine
end

section
/-! SUPPORT. FETCH_TRIGGER (R101, R102): the read that makes a FETCH trigger, what the trigger does in each case of its
checks, and the statement FetchTriggerChecks. -/

namespace Sys2Proof.Machine

/-! ### The checks of a trigger, by the states they tell apart -/

theorem WindowState.busy_iff (x : WindowState) : x.busy = true ↔ x = .queued ∨ x = .inFlight ∨ x = .cancelling := by
  simp [busy, or_assoc]

theorem WindowState.not_busy_of_free {x : WindowState} (h : x = .idle ∨ x = .done ∨ x = .failed) : x.busy = false := by
  rcases h with rfl | rfl | rfl <;> rfl

theorem HealthState.linked_iff (h : HealthState) : h.linked = true ↔ h = .active ∨ h = .suspect := by
  simp [linked]

theorem HealthState.not_linked_iff (h : HealthState) : h.linked = false ↔ h ≠ .active ∧ h ≠ .suspect := by
  simp [linked]

namespace State

/-! ### The trigger and its request -/

/-- A FETCH trigger of a free window goes on to the checks of health and room (R101). -/
theorem fetchTrigger_free {s : State} {p : Port} {w : Fin 4} (h : (s.window p w).state.busy = false) :
    s.fetchTrigger p w = s.triggerAccept p w .read := by simp [fetchTrigger, h]

/-- What a request that joins the queue leaves (R102). -/
theorem enqueue_eq (s : State) (p : Port) (w : Fin 4) (k : RequestKind) :
    s.enqueue p w k =
      { s.modWindow p w fun x =>
          { x with
            state := .queued
            cause := .none
            detail := 0
            address := if x.step then x.address + 4 else x.address } with
        queue := s.queue ++ [⟨p, w, (s.window p w).slot, k, (s.window p w).address, 0⟩] } := rfl

/-- The read of data byte 0 of a window in FETCH mode returns result byte 0 as it stood, and triggers (R101). -/
theorem exec_fetchTrigger {s : State} {p : Port} {a : Byte} {w : Fin 4} (h : s.Stands p false a)
    (ht : s.target p a = .page (.window w (.data 0))) (hf : (s.window p w).fetch = true) :
    exec (.fetchTrigger p) s = .next ((s.fetchTrigger p w).accessDone p false a (s.window p w).result[0]) := by
  have mine : s.isFetchTrigger p (s.target p a) = true := by simp [ht, isFetchTrigger, hf]
  have triggers : readEffect p (.page (.window w (.data 0))) s = s.fetchTrigger p w := by
    simp [readEffect, readDataByte, hf]
  calc exec (.fetchTrigger p) s
      = .next ((readEffect p (s.target p a) s).accessDone p false a (readValue p (s.target p a) s)) :=
        readAccess_mine h mine
    _ = .next ((s.fetchTrigger p w).accessDone p false a (s.window p w).result[0]) := by rw [ht, triggers]; rfl

end State

/-- Settles O32, by what the trigger does in each case of R101's checks. -/
theorem fetchTriggerChecks : Obligations.FetchTriggerChecks := by
  intro p a w s h ht hf
  rw [State.exec_fetchTrigger h ht hf]
  refine ⟨fun busy => ?_, fun free => ?_⟩
  · rw [State.fetchTrigger_busy ((WindowState.busy_iff _).mpr busy)]
  rw [State.fetchTrigger_free (WindowState.not_busy_of_free free)]
  refine ⟨?_, fun linked room => ?_⟩
  · rintro cause (⟨notActive, notSuspect, rfl⟩ | ⟨linked, full, rfl⟩)
    · rw [State.triggerAccept_not_active _ ((HealthState.not_linked_iff _).mpr ⟨notActive, notSuspect⟩),
        State.failWindow_eq]
    · rw [State.triggerAccept_full _ ((HealthState.linked_iff _).mpr linked) full, State.failWindow_eq]
  · rw [State.triggerAccept_taken _ ((HealthState.linked_iff _).mpr linked) room, State.enqueue_eq]

end Sys2Proof.Machine
end

section
/-! SUPPORT. The attention unit (9.1, 9.2): the levels a settled state shows, the writes of EVENTS and EVENT_ENABLE, and the
statements EventLevelsFollowState, LinkstatFollowsTable and EventRegisterWrites. -/

namespace Sys2Proof.Machine

/-- What every settled state has, every command's next state has. -/
theorem exec_of_settled {P : State → Prop} (h : ∀ u : State, P u.settle) (i : Instr) (s : State) :
    ∃ t, exec i s = .next t ∧ P t := by
  obtain ⟨u, hu⟩ := State.exec_settles i s
  exact ⟨u.settle, hu, h u⟩

/-! ### The attention lines and CAPTURE_READY -/

namespace PortContext

@[simp] theorem settle_cursor (c : PortContext) : c.settle.cursor = c.cursor := rfl

theorem hasRecord_iff (c : PortContext) : c.hasRecord = true ↔ ∃ k, c.cursor = some k ∧ 0 < k.unread := by
  unfold hasRecord
  split
  · next h => simp [h]
  · next k h => simp [h]

/-- Bit 0 of a settled port's EVENTS is CAPTURE_READY's condition (R157). -/
theorem settle_captureReady (c : PortContext) : c.settle.events.getLsbD 0 = c.hasRecord := by
  rw [settle_events]
  cases c.hasRecord <;> simp [captureReadyMask]

/-- EVENTS written with `v`: the bits of `v` but for CAPTURE_READY's are cleared (R156). -/
theorem clearEvents_eq (v : Byte) (c : PortContext) :
    c.clearEvents v = { c with events := c.events &&& ~~~(v &&& 0xFE) } := rfl

end PortContext

/-- A settled state drives each attention line as the port's flags and enables stand in it (R159). -/
theorem State.settle_attn_get (u : State) (p : Port) : u.settle.pins.attn.get p = (u.settle.port p).attention := by
  rw [State.settle_port, State.settle_attn, PerPort.get_map, PerPort.get_map, State.port_def]

theorem attentionLineFollowsFlags : Clause.AttentionLineFollowsFlags :=
  exec_of_settled fun u p => u.settle_attn_get p

theorem captureReadyShowsRecord : Clause.CaptureReadyShowsRecord := by
  refine exec_of_settled fun u p => ?_
  rw [State.settle_port, PortContext.settle_captureReady, PortContext.settle_cursor]
  exact PortContext.hasRecord_iff _

/-- Settles O3: each level is derived at the end of every command. -/
theorem eventLevelsFollowState : Obligations.EventLevelsFollowState :=
  ⟨attentionLineFollowsFlags, captureReadyShowsRecord⟩

/-! ### LINKSTAT -/

namespace State

/-- R162's table of mode and fault select: when the pin is asserted. -/
def LinkstatTable (s : State) : Prop :=
  s.sched.link ≠ .stopped ∧
    ((s.config.linkstatHealth = false ∧ s.config.linkstatFault = false ∧ s.phase = true) ∨
      (s.config.linkstatHealth = false ∧ s.config.linkstatFault = true ∧
        (s.phase = true ∨ ∃ j, (s.slot j).health.state = .lockedOut)) ∨
      (s.config.linkstatHealth = true ∧ s.config.linkstatFault = false ∧
        ∀ j, (s.slot j).health.state = .disabled ∨ (s.slot j).health.state = .active) ∨
      (s.config.linkstatHealth = true ∧ s.config.linkstatFault = true ∧ ∃ j, (s.slot j).health.state = .lockedOut))

theorem someLockedOut_iff (s : State) : s.someLockedOut = true ↔ ∃ j, (s.slot j).health.state = .lockedOut := by
  simp [someLockedOut, allSlots]

theorem allActive_iff (s : State) :
    s.allActive = true ↔ ∀ j, (s.slot j).health.state = .disabled ∨ (s.slot j).health.state = .active := by
  simp [allActive, allSlots]

/-- The pin is asserted as the table says: STOPPED never, else by the row of the mode and the fault select. -/
theorem linkstatAsserted_iff (s : State) : s.linkstatAsserted = true ↔ s.LinkstatTable := by
  unfold linkstatAsserted LinkstatTable
  by_cases stopped : s.sched.link = .stopped
  · simp [stopped]
  cases mode : s.config.linkstatHealth <;> cases fault : s.config.linkstatFault
  case neg.false.false => simp [stopped]
  case neg.false.true => simp [stopped, someLockedOut_iff, or_comm]
  case neg.true.false => simp [stopped, allActive_iff]
  case neg.true.true => simp [stopped, someLockedOut_iff]

/-- The pin is low when it is asserted with invert off, or deasserted with invert on (R162). -/
theorem linkstatLevel_low_iff (s : State) : s.linkstatLevel = .low ↔ (s.LinkstatTable ↔ s.config.linkstatInvert = false) := by
  rw [← linkstatAsserted_iff, linkstatLevel]
  cases s.linkstatAsserted <;> cases s.config.linkstatInvert <;> simp

/-- A settled state drives LINKSTAT as its own mode, fault select, link state and slots give. -/
theorem settle_linkstat_level (u : State) : u.settle.pins.linkstat = u.settle.linkstatLevel := rfl

end State

/-- Settles O4, by the table of R162 read in the settled state. -/
theorem linkstatFollowsTable : Obligations.LinkstatFollowsTable := by
  refine exec_of_settled fun u => ?_
  rw [State.settle_linkstat_level]
  exact u.settle.linkstatLevel_low_iff

/-! ### Writes to a port's own registers -/

/-- A write to a location of the port page that changes the port's own context by `f` alone. -/
theorem State.contextWrite_done {s : State} {p : Port} {a : Byte} {l : PageLocation} (v : Byte)
    (f : PortContext → PortContext) (h : s.Stands p true a) (ht : s.target p a = .page l) :
    (s.contextWrite p v l f).finish = .next ((s.modPort p f).accessDone p true a 0) :=
  State.writeAccess_mine h (by simp [ht])

theorem State.target_events (s : State) (p : Port) : s.target p 0x05 = .page .events := rfl

theorem State.target_enables (s : State) (p : Port) : s.target p 0x06 = .page .enables := rfl

theorem eventsWriteClearsFlags : Clause.EventsWriteClearsFlags := by
  intro p v s h
  calc exec (.eventsWrite p v) s
      = .next ((s.modPort p (·.clearEvents v)).accessDone p true 0x05 0) :=
        State.contextWrite_done v _ h (s.target_events p)
    _ = _ := by simp only [PortContext.clearEvents_eq]

theorem eventEnableWriteReplaces : Clause.EventEnableWriteReplaces :=
  fun p v s h => State.contextWrite_done v _ h (s.target_enables p)

/-- Settles O13, by what a write to a port's own register does. -/
theorem eventRegisterWrites : Obligations.EventRegisterWrites := ⟨eventsWriteClearsFlags, eventEnableWriteReplaces⟩

end Sys2Proof.Machine
end

section
/-! SUPPORT. Everything a command can do, said once: the effects that the blocks have on the state, each with what is known
where it takes place, and the shape of every command's next state. An invariant that each effect keeps, every step keeps. -/

namespace Sys2Proof.Machine

/-- What the claim table, a commit and CLEAR_LATCH do to a slot: its configuration, its health and its record's state stay,
and a new owner is a port whose role lets it drive (R80). -/
structure Slot.ClaimChange (s : State) (x y : Slot) : Prop where
  config : y.config = x.config
  health : y.health = x.health
  record : y.input.state = x.input.state
  owner : ∀ p, y.owner = some p → x.owner = some p ∨ (s.ready = true ∧ s.role p ≠ .observe)

theorem Slot.ClaimChange.refl (s : State) (x : Slot) : Slot.ClaimChange s x x := ⟨rfl, rfl, rfl, fun _ h => .inl h⟩

/-- A change of the configuration, an owner, a committed output or an enabled slot. -/
inductive ConfigEffect (s : State) : State → Prop
  | startUp (loading : s.ready = false) : ConfigEffect s s.startUp
  | setting (g : Global) (v : Byte) (range : g.inRange v = true) : ConfigEffect s { s with config := s.config.put g v }
  | slotConfig (i : Fin 16) (f : ConfigField) (v : Byte) (off : (s.slot i).health.state = .disabled)
      (range : f.inRange v = true) : ConfigEffect s (s.modSlot i fun x => { x with config := x.config.put f v })
  | claims (v : Vector Slot 16) (change : ∀ i : Fin 16, Slot.ClaimChange s (s.slot i) v[i]) :
      ConfigEffect s { s with slots := v }
  | enable (i : Fin 16) (ready : s.ready = true) (off : (s.slot i).health.state = .disabled)
      (free : s.addressHolder i = none) : ConfigEffect s (s.changeSlot i (·.enable))

/-- A step of a save, or its issuer's port clear (10.6). -/
inductive StoreEffect (s : State) : State → Prop
  | detached (p : Port) : StoreEffect s (s.clearSave p)
  | starts (p : Port) (none : s.store.save = none) : StoreEffect s (s.startSave p)
  | erased (v : Save) (save : s.store.save = some v) (phase : v.phase = .erase) : StoreEffect s (s.saveErased v)
  | written (v : Save) (misread : List Host.Cell) (save : s.store.save = some v) (phase : v.phase = .body) :
      StoreEffect s (s.saveWritten v misread)
  | validated (v : Save) (cell1 cell0 : Byte) (save : s.store.save = some v) (phase : v.phase = .validation) :
      StoreEffect s (s.saveValidated v cell1 cell0)

/-- A change of what the link engine has to do: a disabled slot, the link's start and stop, the engine's steps, a report, a cycle
(01, 02). -/
inductive LinkEffect (s : State) : State → Prop
  | disable (i : Fin 16) (on : (s.slot i).health.state ≠ .disabled) : LinkEffect s (s.disableSlot i)
  | linkStarts (ready : s.ready = true) (stopped : s.sched.link = .stopped) : LinkEffect s s.startLink
  | linkStopping (running : s.sched.link = .running) (busy : s.inFlight = true) :
      LinkEffect s (s.modSched fun c => { c with link := .stopping })
  | linkStops (running : s.sched.link = .running) (idle : s.inFlight = false) : LinkEffect s s.enterStopped
  | engine (e : Engine)
      (exchange : e.exchange.map (fun x => (x.kind, x.slot)) = s.engine.exchange.map fun x => (x.kind, x.slot))
      (quiet : (∃ r g, s.engine = .quiet r g) → ∃ r g, e = .quiet r g) : LinkEffect s { s with engine := e }
  | engineReady (quiet : ∃ r g, s.engine = .quiet r g) : LinkEffect s s.enterReady
  | decided (x : Exchange) (d : Decision) (exchange : s.engine.exchange = some x) : LinkEffect s (s.decideOutcome x d)
  | cycle (running : s.sched.link = .running) (ended : s.sched.inCycle = false) : LinkEffect s s.startCycle

/-- An effect that a block has on the state, a port's transport apart. -/
inductive Effect (s : State) : State → Prop
  | config {t : State} (h : ConfigEffect s t) : Effect s t
  | store {t : State} (h : StoreEffect s t) : Effect s t
  | link {t : State} (h : LinkEffect s t) : Effect s t
  | context (p : Port) (f : PortContext → PortContext) (windows : ∀ c, (f c).windows = c.windows)
      (cursor : ∀ c, (f c).cursor = c.cursor) : Effect s (s.modPort p f)
  | flag (e : Event) : Effect s (s.raiseAll e)
  | capt (l : Level) : Effect s { s with pins := { s.pins with capt := l } }
  | capture (x : Source) : Effect s (s.takeCapture x)
  | restart (i : Fin 16) (locked : (s.slot i).health.state = .lockedOut) :
      Effect s (s.changeSlot i fun x => { x with health := x.health.restart })
  | window (p : Port) (w : Fin 4) (f : Window → Window) (state : ∀ x, (f x).state = x.state) :
      Effect s (s.modWindow p w f)
  | windowFails (p : Port) (w : Fin 4) (c : Cause) (d : Byte) (free : (s.window p w).state.busy = false) :
      Effect s (s.failWindow p w c d)
  | request (p : Port) (w : Fin 4) (k : RequestKind) (free : (s.window p w).state.busy = false)
      (linked : (s.slot (s.window p w).slot).health.state.linked = true) (room : s.queue.length < 8) :
      Effect s (s.enqueue p w k)
  | cancel (p : Port) (w : Fin 4) : Effect s (s.cancelWindow p w)
  | windowsClear (p : Port) : Effect s (s.clearWindows p)
  | subscribe (p : Port) : Effect s (s.subscribe p)
  | unsubscribe (p : Port) : Effect s (s.unsubscribe p)
  | advance (p : Port) (r : CaptureRecord) (record : s.recordAt p = some r) : Effect s (s.advancePast p r)
  | counts (f : Scheduler → Scheduler) (link : ∀ c, (f c).link = c.link) (inCycle : ∀ c, (f c).inCycle = c.inCycle) :
      Effect s (s.modSched f)

/-- Effects one after the other. -/
abbrev Effects : State → State → Prop := Relation.ReflTransGen Effect

theorem Effect.effects {s t : State} (h : Effect s t) : Effects s t := .single h

/-- Effects, and then a transport that has moved on: what a command leaves before the levels are derived again. -/
def Works (s t : State) : Prop :=
  ∃ (u : State) (a b : Spi) (c : I2c), Effects s u ∧ t = { u with spiA := a, spiB := b, i2c := c }

theorem Effects.works {s t : State} (h : Effects s t) : Works s t := ⟨t, t.spiA, t.spiB, t.i2c, h, rfl⟩

namespace State

/-! ### Updates of one part -/

theorem modCommand_effect (s : State) (p : Port) (f : CommandSlot → CommandSlot) : Effect s (s.modCommand p f) :=
  .context p _ (fun _ => rfl) fun _ => rfl

theorem raise_effect (s : State) (e : Event) (p : Port) : Effect s (s.raise e p) :=
  .context p _ (fun _ => rfl) fun _ => rfl

theorem refuse_effect (s : State) (p : Port) : Effect s (s.refuse p) :=
  .context p _ (fun _ => rfl) fun _ => rfl

theorem afterData_effects (s : State) (p : Port) (a : Byte) : Effects s (s.afterData p a) := by
  unfold afterData
  split
  · exact .single (Effect.context p _ (fun _ => rfl) fun _ => rfl)
  · exact .refl

theorem afterByte_eq_transports (s : State) (p : Port) (w : Bool) (a r : Byte) :
    ∃ (x y : Spi) (z : I2c), s.afterByte p w a r = { s with spiA := x, spiB := y, i2c := z } := by
  cases p
  · exact ⟨_, s.spiB, s.i2c, rfl⟩
  · exact ⟨s.spiA, _, s.i2c, rfl⟩
  · exact ⟨s.spiA, s.spiB, _, rfl⟩

theorem modSlot_claims {s : State} {i : Fin 16} {f : Slot → Slot}
    (h : Slot.ClaimChange s (s.slot i) (f (s.slot i))) : Effect s (s.modSlot i f) := by
  refine .config (.claims (s.modSlot i f).slots fun j => ?_)
  have e := s.modSlot_slot i j f
  unfold slot at e ⊢
  rw [e]
  split
  · next hj => subst hj; exact h
  · exact .refl _ _

theorem modSlots_claims {s : State} {f : Slot → Slot} (h : ∀ i, Slot.ClaimChange s (s.slot i) (f (s.slot i))) :
    Effect s (s.modSlots f) := by
  refine .config (.claims (s.modSlots f).slots fun j => ?_)
  have e := s.modSlots_slot f j
  unfold slot at e
  rw [e]
  exact h j

/-- A slot whose owner goes (R84). -/
theorem release_claimChange (s : State) (x : Slot) : Slot.ClaimChange s x x.release := by
  rw [Slot.release_eq]
  exact ⟨rfl, rfl, rfl, fun p h => by cases h⟩

/-! ### Accesses and the command slot -/

theorem access_works {s : State} (p : Port) (x : Access) {mine : Target → Bool} (value : Target → State → Byte)
    {effect : Target → State → State} (h : ∀ t, s.ready = true → mine t = true → Effects s (effect t s)) :
    Works s (s.access p x mine value effect) := by
  rcases s.access_cases p x mine value effect with e | ⟨a, -, ⟨-, e⟩ | ⟨hr, hm, e⟩⟩
  · rw [e]; exact Effects.works .refl
  · obtain ⟨y, z, w, he⟩ := s.afterByte_eq_transports p x.isWrite a 0
    exact ⟨s, y, z, w, .refl, e.trans he⟩
  · obtain ⟨y, z, w, he⟩ := ((effect (s.target p a) s).afterData p a).afterByte_eq_transports p x.isWrite a
      (value (s.target p a) s)
    exact ⟨_, y, z, w, (h _ hr hm).trans (afterData_effects _ p a), e.trans he⟩

theorem issue_effects {s : State} (p : Port) (code : Byte) {owner : State → Answer} (hr : s.ready = true)
    (h : ∀ u : State, u.ready = true → Effects u (owner u).state) : Effects s (s.issue p code owner) := by
  unfold issue
  split
  · exact .single (Effect.context p _ (fun _ => rfl) fun _ => rfl)
  · exact .head (s.modCommand_effect p _) (.tail (h _ hr) (modCommand_effect _ p _))

theorem checkRole_effects {s : State} {permitted : Bool} {next : Answer}
    (h : permitted = true → Effects s next.state) : Effects s (s.checkRole permitted next).state := by
  unfold checkRole
  split
  · next hp => exact h hp
  · exact .refl

theorem withSlot_effects {s : State} (p : Port) {next : Fin 16 → Answer} (h : ∀ i, Effects s (next i).state) :
    Effects s (s.withSlot p next).state := by
  unfold withSlot
  split
  · exact .refl
  · exact h _

/-! ### The answers of the commands -/

theorem claimAnswer_effects {s : State} (p : Port) (hr : s.ready = true) : Effects s (s.claimAnswer p).state := by
  refine checkRole_effects fun hd => withSlot_effects p fun i => ?_
  have drives : s.role p ≠ .observe := by simpa [mayDrive] using hd
  unfold claimSlot
  split
  · dsimp only
    refine .single (modSlot_claims ⟨rfl, rfl, rfl, fun q h => .inr ⟨hr, ?_⟩⟩)
    cases h
    exact drives
  · split <;> exact .refl

theorem releaseAnswer_effects (s : State) (p : Port) : Effects s (s.releaseAnswer p).state := by
  refine withSlot_effects p fun i => ?_
  split
  · exact .single (modSlot_claims (s.release_claimChange _))
  · exact .refl

theorem claimLost_effect (s : State) (q : Port) (i : Fin 16) : Effect s (s.claimLost q i) := by
  rw [claimLost_eq]
  exact .context q _ (fun _ => rfl) fun _ => rfl

theorem revokeAnswer_effects (s : State) (p : Port) : Effects s (s.revokeAnswer p).state := by
  refine checkRole_effects fun _ => withSlot_effects p fun i => ?_
  unfold revokeSlot
  split
  · exact .refl
  · exact .tail (.single (modSlot_claims (s.release_claimChange _))) (claimLost_effect _ _ i)

theorem enableAnswer_effects {s : State} (p : Port) (hr : s.ready = true) : Effects s (s.enableAnswer p).state := by
  refine checkRole_effects fun _ => withSlot_effects p fun i => ?_
  unfold enableSlot
  split
  · exact .refl
  · split
    · exact .refl
    · next free =>
      split
      · next off => exact .single (.config (.enable i hr off free))
      · exact .refl

theorem disableAnswer_effects (s : State) (p : Port) : Effects s (s.disableAnswer p).state := by
  refine checkRole_effects fun _ => withSlot_effects p fun i => ?_
  unfold disableAnswerSlot
  split
  · exact .refl
  · next on => exact .single (Effect.link (.disable i on))

theorem restartAnswer_effects (s : State) (p : Port) : Effects s (s.restartAnswer p).state := by
  refine checkRole_effects fun _ => withSlot_effects p fun i => ?_
  unfold restartSlot
  split
  · next locked => exact .single (Effect.restart i locked)
  · exact .refl

theorem clearLatchAnswer_effects (s : State) (p : Port) : Effects s (s.clearLatchAnswer p).state := by
  refine withSlot_effects p fun i => ?_
  split
  · dsimp only
    exact .single (modSlot_claims ⟨rfl, rfl, rfl, fun _ h => .inl h⟩)
  · exact .refl

theorem advanceAnswer_effects (s : State) (p : Port) : Effects s (s.advanceAnswer p).state := by
  unfold advanceAnswer
  split
  · exact .refl
  · split
    · exact .refl
    · next r record => exact .single (Effect.advance p r record)

theorem cancelAnswer_effects (s : State) (p : Port) : Effects s (s.cancelAnswer p).state := by
  unfold cancelAnswer
  split
  · exact .refl
  · next w _ => exact .single (Effect.cancel p w)

theorem linkStartAnswer_effects {s : State} (p : Port) (hr : s.ready = true) :
    Effects s (s.linkStartAnswer p).state := by
  refine checkRole_effects fun _ => ?_
  split
  · next stopped => exact .single (Effect.link (.linkStarts hr stopped))
  · exact .refl
  · exact .refl

theorem addWaiter_effect (s : State) (p : Port) : Effect s (s.addWaiter p) :=
  .counts _ (fun _ => rfl) fun _ => rfl

theorem linkStopAnswer_effects (s : State) (p : Port) : Effects s (s.linkStopAnswer p).state := by
  refine checkRole_effects fun _ => ?_
  split
  · exact .refl
  · next running =>
    split
    · next busy => exact .tail (.tail (.single (Effect.link (.linkStopping running busy))) (.flag _)) (addWaiter_effect _ p)
    · next idle => exact .single (Effect.link (.linkStops running (by simpa using idle)))
  · exact .single (s.addWaiter_effect p)

theorem saveConfigAnswer_effects (s : State) (p : Port) : Effects s (s.saveConfigAnswer p).state := by
  refine checkRole_effects fun _ => ?_
  split
  · exact .refl
  · next h => exact .single (.store (.starts p (by simpa using h)))

theorem clearWaiter_effect (s : State) (p : Port) : Effect s (s.clearWaiter p) :=
  .counts _ (fun _ => rfl) fun _ => rfl

theorem clearClaims_effects (s : State) (p : Port) : Effects s (s.clearClaims p) := by
  have claims : Effect s (s.modSlots fun x => if x.owner = some p then x.release else x) :=
    modSlots_claims fun i => by
      split
      · exact s.release_claimChange _
      · exact .refl _ _
  refine .head claims (.single ?_)
  exact .context p _ (fun _ => rfl) fun _ => rfl

theorem portClear_effects (s : State) (p : Port) : Effects s (s.portClear p) := by
  refine .trans (.trans (s.clearClaims_effects p) ?_) (.single (.context p _ ?_ ?_))
  · refine .head (.windowsClear p) (.head (.unsubscribe p) (.head (clearWaiter_effect _ p) ?_))
    exact .head (.store (.detached p)) (.single (modCommand_effect _ p _))
  · exact fun _ => rfl
  · exact fun _ => rfl

/-! ### Reads and writes at a location -/

theorem triggerAccept_effects {s : State} {p : Port} {w : Fin 4} (k : RequestKind)
    (free : (s.window p w).state.busy = false) : Effects s (s.triggerAccept p w k) := by
  by_cases linked : (s.slot (s.window p w).slot).health.state.linked = true
  · by_cases full : 8 ≤ s.queue.length
    · rw [triggerAccept_full k linked full]; exact .single (Effect.windowFails p w _ _ free)
    · have room : s.queue.length < 8 := Nat.lt_of_not_le full
      rw [triggerAccept_taken k linked room]; exact .single (Effect.request p w k free linked room)
  · rw [triggerAccept_not_active k (by simpa using linked)]; exact .single (Effect.windowFails p w _ _ free)

theorem writeTrigger_effects (s : State) (p : Port) (w : Fin 4) : Effects s (s.writeTrigger p w) := by
  by_cases busy : (s.window p w).state.busy = true
  · rw [writeTrigger_busy busy]; exact .single (Effect.window p w _ fun _ => rfl)
  · have free : (s.window p w).state.busy = false := by simpa using busy
    simp only [writeTrigger, free, Bool.false_eq_true, if_false]
    split
    · exact .single (Effect.windowFails p w _ _ free)
    · split
      · exact .single (Effect.windowFails p w _ _ free)
      · exact triggerAccept_effects _ free

theorem fetchTrigger_effects (s : State) (p : Port) (w : Fin 4) : Effects s (s.fetchTrigger p w) := by
  by_cases busy : (s.window p w).state.busy = true
  · rw [fetchTrigger_busy busy]; exact .single (Effect.window p w _ fun _ => rfl)
  · have free : (s.window p w).state.busy = false := by simpa using busy
    rw [fetchTrigger_free free]
    exact triggerAccept_effects _ free

theorem readEffect_effects (p : Port) (t : Target) (s : State) : Effects s (readEffect p t s) := by
  unfold readEffect
  split
  · next w k =>
    unfold readDataByte
    split
    · exact s.fetchTrigger_effects p w
    · exact .refl
  · exact .refl
  · exact .single (Effect.context p _ (fun _ => rfl) fun _ => rfl)
  · exact .refl

theorem storeDescriptor_effects (s : State) (p : Port) (w : Fin 4) (f : WindowField) (v : Byte) :
    Effects s (s.storeDescriptor p w f v) := by
  unfold storeDescriptor
  split
  · exact .single (s.refuse_effect p)
  · split
    · exact .single (s.refuse_effect p)
    · exact .single (Effect.window p w _ fun x => by cases f <;> rfl)

theorem storeWindow_effects (p : Port) (v : Byte) (t : Target) (s : State) : Effects s (storeWindow p v t s) := by
  unfold storeWindow
  split
  · next w k =>
    have stored : Effect s (s.modWindow p w fun x => { x with assembly := setByte x.assembly k v }) :=
      .window p w _ fun _ => rfl
    unfold storeDataByte
    dsimp only
    split
    · exact stored.effects.trans (writeTrigger_effects _ p w)
    · exact stored.effects
  · next w =>
    unfold storeFlags
    split
    · exact .single (Effect.window p w _ fun _ => rfl)
    · exact .refl
  · next w f _ _ => exact s.storeDescriptor_effects p w f v
  · exact .refl
  · exact .refl

theorem writeGlobal_effects (s : State) (p : Port) (g : Global) (allowed : Bool) (v : Byte) :
    Effects s (s.writeGlobal p g allowed v) := by
  unfold writeGlobal
  split
  · next h => exact .single (.config (.setting g v h.2.2))
  · exact .single (s.refuse_effect p)

theorem stageByte_effects (s : State) (p : Port) (i k : Fin 16) (v : Byte) : Effects s (s.stageByte p i k v) := by
  unfold stageByte
  split
  · exact .single (s.refuse_effect p)
  · split
    · exact .single (s.refuse_effect p)
    · refine .single (Effect.context p _ (fun c => ?_) fun c => ?_)
      all_goals
        split
        · rfl
        · split <;> rfl

theorem commitStage_effects (s : State) (p : Port) (i : Fin 16) : Effects s (s.commitStage p i) := by
  have emptied : Effect s (s.modPort p fun c => { c with stage := none }) := .context p _ (fun _ => rfl) fun _ => rfl
  unfold commitStage
  split
  · exact .refl
  · split
    · dsimp only
      split
      · exact .tail emptied.effects (modSlot_claims ⟨rfl, rfl, rfl, fun _ h => .inl h⟩)
      · exact .tail emptied.effects (refuse_effect _ p)
    · exact .refl

theorem writeImage_effects (s : State) (p : Port) (l : ImageLocation) (v : Byte) : Effects s (s.writeImage p l v) := by
  cases l with
  | output i k => exact s.stageByte_effects p i k v
  | commit i => exact s.commitStage_effects p i
  | config i f =>
    simp only [writeImage, writeSlotConfig]
    split
    · next h => exact .single (.config (.slotConfig i f v h.2.1 h.2.2))
    · exact .single (s.refuse_effect p)
  | setting g => cases g <;> exact s.writeGlobal_effects p _ _ v
  | unassigned => exact .refl
  | _ => exact .single (s.refuse_effect p)

theorem storeImage_effects (p : Port) (v : Byte) (t : Target) (s : State) : Effects s (storeImage p v t s) := by
  unfold storeImage
  split
  · exact s.writeImage_effects p _ v
  · exact .refl

theorem storePlain_effects (p : Port) (v : Byte) (t : Target) (s : State) : Effects s (storePlain p v t s) := by
  unfold storePlain
  split
  · unfold writePlainPage
    split
    all_goals first | exact .single (s.modCommand_effect p _) | exact .single (s.refuse_effect p) | exact .refl
  · exact s.writeImage_effects p _ v

theorem setSpi_works (s : State) (p : SpiPort) (x : Spi) : Works s (s.setSpi p x) := by
  cases p
  · exact ⟨s, x, s.spiB, s.i2c, .refl, rfl⟩
  · exact ⟨s, s.spiA, x, s.i2c, .refl, rfl⟩

theorem setI2c_works (s : State) (x : I2c) : Works s { s with i2c := x } := ⟨s, s.spiA, s.spiB, x, .refl, rfl⟩

/-! ### The engine's events -/

theorem lowOnLine_effects (s : State) : Effects s s.lowOnLine := by
  unfold lowOnLine
  split
  · next r g h => exact .single (Effect.link (.engine (.quiet r .lastLow) (by rw [h]; rfl) fun _ => ⟨_, _, rfl⟩))
  all_goals exact .refl

/-- The engine goes on with the exchange it has in flight. -/
theorem engine_effects {s : State} {x : Exchange} (e : Engine) (hx : s.engine.exchange = some x)
    (he : e.exchange.map (fun y => (y.kind, y.slot)) = some (x.kind, x.slot)) : Effects s { s with engine := e } := by
  refine .single (Effect.link (.engine e (by rw [he, hx]; rfl) ?_))
  rintro ⟨r, g, h⟩
  rw [h] at hx
  cases hx

theorem decideOutcome_effects {s : State} {x : Exchange} (d : Decision) (hx : s.engine.exchange = some x) :
    Effects s (s.decideOutcome x d) := .single (Effect.link (.decided x d hx))

theorem inSave_effects {s : State} {phase : SavePhase} {f : Save → State}
    (h : ∀ v, s.store.save = some v → v.phase = phase → Effects s (f v)) : Effects s (s.inSave phase f) := by
  unfold inSave
  split
  · exact .refl
  · next v hv =>
    split
    · next hp => exact h v hv hp
    · exact .refl

/-! ### Byte accesses -/

/-- The command is one access of port `p` with its row's test (log entry 1): a read returns what its location shows, and all that it
does to the state is effects. -/
def AccessRow (s : State) (i : Instr) (p : Port) (x : Access) : Prop :=
  ∃ mine value effect, exec i s = (s.access p x mine value effect).finish ∧ (∀ t, mine t = s.rowTakes p i t) ∧
    (∀ t, x.isWrite = false → value t s = readValue p t s) ∧ ∀ t, s.ready = true → Effects s (effect t s)

theorem accessRow_write {s : State} {i : Instr} {p : Port} {v : Byte} {mine : Target → Bool}
    {effect : Target → State → State} (e : exec i s = (s.writeAccess p v mine effect).finish)
    (h : ∀ t, s.ready = true → Effects s (effect t s)) (takes : ∀ t, mine t = s.rowTakes p i t := by exact fun _ => rfl) :
    s.AccessRow i p (.write v) := ⟨mine, fun _ _ => 0, effect, e, takes, nofun, h⟩

theorem accessRow_read {s : State} {i : Instr} {p : Port} {mine : Target → Bool}
    (e : exec i s = (s.readAccess p mine).finish) (takes : ∀ t, mine t = s.rowTakes p i t := by exact fun _ => rfl) :
    s.AccessRow i p .read := ⟨mine, readValue p, readEffect p, e, takes, fun _ _ => rfl, fun t _ => readEffect_effects p t s⟩

theorem accessRow_command {s : State} {i : Instr} {p : Port} {code : Byte} {owner : State → Answer}
    (e : exec i s = (s.cmdWrite p code owner).finish) (h : ∀ u : State, u.ready = true → Effects u (owner u).state)
    (takes : ∀ t, isCmd t = s.rowTakes p i t := by exact fun _ => rfl) : s.AccessRow i p (.write code) :=
  accessRow_write (mine := isCmd) e (fun _ hr => issue_effects p code hr h) takes

/-- Every command that is an access is one of its row, but for a code that names a command sent as one that names none. -/
theorem exec_access {i : Instr} {p : Port} {x : Access} (s : State) (h : i.access = some (p, x)) :
    s.AccessRow i p x ∨ (exec i s = .next s.settle ∧ (∀ t, s.rowTakes p i t = false) ∧ i.wellFormed = false) := by
  cases i
  case unknownCommand p code =>
    cases h
    by_cases hc : unknownCode code = true
    · refine .inl (accessRow_command (owner := (·.unknownAnswer code)) ?_ (fun _ _ => .refl) fun t => ?_)
      · simp [exec, execUnknownCommand, hc]
      · simp [rowTakes, hc, isCmd]
    · refine .inr ⟨?_, fun t => ?_, ?_⟩
      · simp [exec, execUnknownCommand, hc, finish]
      · simp [rowTakes, hc]
      · simpa [Instr.wellFormed] using hc
  all_goals cases h
  all_goals refine .inl ?_
  case claim => exact accessRow_command rfl fun _ hr => claimAnswer_effects _ hr
  case release => exact accessRow_command rfl fun u _ => u.releaseAnswer_effects _
  case revoke => exact accessRow_command rfl fun u _ => u.revokeAnswer_effects _
  case enable => exact accessRow_command rfl fun _ hr => enableAnswer_effects _ hr
  case disable => exact accessRow_command rfl fun u _ => u.disableAnswer_effects _
  case restart => exact accessRow_command rfl fun u _ => u.restartAnswer_effects _
  case clearLatch => exact accessRow_command rfl fun u _ => u.clearLatchAnswer_effects _
  case subscribe => exact accessRow_command rfl fun u _ => .single (Effect.subscribe _)
  case unsubscribe => exact accessRow_command rfl fun u _ => .single (Effect.unsubscribe _)
  case advance => exact accessRow_command rfl fun u _ => u.advanceAnswer_effects _
  case captureNow => exact accessRow_command rfl fun u _ => .single (Effect.capture _)
  case cancel => exact accessRow_command rfl fun u _ => u.cancelAnswer_effects _
  case portClear => exact accessRow_write rfl fun _ _ => s.portClear_effects _
  case linkStart => exact accessRow_command rfl fun _ hr => linkStartAnswer_effects _ hr
  case linkStop => exact accessRow_command rfl fun u _ => u.linkStopAnswer_effects _
  case saveConfig => exact accessRow_command rfl fun u _ => u.saveConfigAnswer_effects _
  case takeSnapshot => exact accessRow_read rfl
  case fetchTrigger => exact accessRow_read rfl
  case outputByteWrite => exact accessRow_write rfl fun t _ => storeImage_effects _ _ t s
  case commit => exact accessRow_write rfl fun t _ => storeImage_effects _ _ t s
  case slotConfigWrite => exact accessRow_write rfl fun t _ => storeImage_effects _ _ t s
  case descriptorStore => exact accessRow_write rfl fun t _ => storeWindow_effects _ _ t s
  case dataByteStore => exact accessRow_write rfl fun t _ => storeWindow_effects _ _ t s
  case writeTrigger => exact accessRow_write rfl fun t _ => storeWindow_effects _ _ t s
  case windowFlagsWrite => exact accessRow_write rfl fun t _ => storeWindow_effects _ _ t s
  case eventsWrite => exact accessRow_write rfl fun _ _ => .single (Effect.context _ _ (fun _ => rfl) fun _ => rfl)
  case eventEnableWrite => exact accessRow_write rfl fun _ _ => .single (Effect.context _ _ (fun _ => rfl) fun _ => rfl)
  case portStatusWrite => exact accessRow_write rfl fun _ _ => .single (Effect.context _ _ (fun _ => rfl) fun _ => rfl)
  case pageWrite => exact accessRow_write rfl fun _ _ => .single (Effect.context _ _ (fun _ => rfl) fun _ => rfl)
  case ptrWrite =>
    refine accessRow_write rfl fun t _ => .single (Effect.context _ _ (fun c => ?_) fun c => ?_)
    all_goals unfold PortContext.putPointer; split <;> rfl
  case dataAccess =>
    cases x
    · exact accessRow_read rfl
    · exact accessRow_write rfl fun t _ => storeImage_effects _ _ t s
  case plainWrite =>
    cases x
    · exact accessRow_read rfl
    · exact accessRow_write rfl fun t _ => storePlain_effects _ _ t s
  all_goals exact accessRow_write rfl fun t _ => storeImage_effects _ _ t s

/-- What a command leaves before the levels are derived again, unless it is PART_RESET. -/
theorem exec_works (i : Instr) (s : State) (notReset : ∀ cause addr cut, i ≠ .partReset cause addr cut) :
    ∃ t, exec i s = .next t.settle ∧ Works s t := by
  by_cases ha : ∃ p x, i.access = some (p, x)
  · obtain ⟨p, x, ha⟩ := ha
    rcases s.exec_access ha with ⟨mine, value, effect, e, -, -, h⟩ | ⟨e, -, -⟩
    · exact ⟨_, e, access_works p x value fun t hr _ => h t hr⟩
    · exact ⟨s, e, Effects.works .refl⟩
  cases i
  case partReset cause addr cut => exact absurd rfl (notReset cause addr cut)
  all_goals first | exact absurd ⟨_, _, rfl⟩ ha | refine ⟨_, rfl, ?_⟩
  case storeLoadDone =>
    refine Effects.works ?_
    split
    · exact .refl
    · next hr => exact .single (.config (.startUp (by simpa using hr)))
  case captEdge level =>
    refine Effects.works ?_
    dsimp only
    split
    · exact .tail (.single (Effect.capt level)) (.capture .pin)
    · exact .single (Effect.capt level)
  case spiCsFall p => exact s.setSpi_works p _
  case spiOperationByte p v => exact s.setSpi_works p _
  case spiAddressByte p v => exact s.setSpi_works p _
  case spiCsRise p => exact s.setSpi_works p _
  case i2cStart => exact s.setI2c_works _
  case i2cTargetAddress => exact s.setI2c_works _
  case i2cAddressByte => exact s.setI2c_works _
  case i2cStop => exact s.setI2c_works _
  case i2cReadNack => exact s.setI2c_works _
  case guardMet =>
    refine Effects.works ?_
    split
    · next r g h => exact .single (Effect.link (.engineReady ⟨r, g, h⟩))
    all_goals exact .refl
  case guardTimeout =>
    refine Effects.works ?_
    split
    · next r g h => exact .single (Effect.link (.engineReady ⟨r, g, h⟩))
    all_goals exact .refl
  case requestSent =>
    refine Effects.works ?_
    split
    · next x h => exact engine_effects _ (by rw [h]; rfl) rfl
    all_goals exact .refl
  case responseTimeout line =>
    refine Effects.works ?_
    split
    · next x h =>
      cases line
      · exact engine_effects _ (by rw [h]; rfl) rfl
      · exact decideOutcome_effects _ (by rw [h]; rfl)
    all_goals exact .refl
  case replyByte v stop =>
    refine Effects.works ?_
    split
    · next x h =>
      cases stop
      · exact decideOutcome_effects _ (by rw [h]; rfl)
      · dsimp only
        split
        · exact decideOutcome_effects _ (by rw [h]; rfl)
        · exact engine_effects (x := x) _ (by rw [h]; rfl) rfl
    · exact s.lowOnLine_effects
    all_goals exact .refl
  case idleTimeout line =>
    refine Effects.works ?_
    split
    · next x h =>
      cases line
      · exact engine_effects _ (by rw [h]; rfl) rfl
      · exact decideOutcome_effects _ (by rw [h]; rfl)
    all_goals exact .refl
  case replyStartBit middle =>
    refine Effects.works ?_
    split
    · next x expired h =>
      cases middle
      · exact engine_effects _ (by rw [h]; rfl) rfl
      · dsimp only
        split
        · exact decideOutcome_effects _ (by rw [h]; rfl)
        · exact .refl
    · next x h =>
      cases middle
      · exact engine_effects _ (by rw [h]; rfl) rfl
      · exact .refl
    · next x h =>
      cases middle
      · exact engine_effects _ (by rw [h]; rfl) rfl
      · exact decideOutcome_effects _ (by rw [h]; rfl)
    · exact s.lowOnLine_effects
    all_goals exact .refl
  case guardRestart => exact s.lowOnLine_effects.works
  case cycleTimerExpiry =>
    refine Effects.works ?_
    split
    · next running =>
      split
      · unfold State.overrun
        refine .trans (.single ?_) (.single (.flag .overrun))
        exact .counts _ (fun _ => rfl) fun _ => rfl
      · next ended => exact .single (Effect.link (.cycle running (by simpa using ended)))
    all_goals exact .refl
  case saveEraseDone => exact (inSave_effects fun v hv hp => .single (.store (.erased v hv hp))).works
  case saveBodyDone misread =>
    exact (inSave_effects fun v hv hp => .single (.store (.written v misread hv hp))).works
  case saveComplete cell1 cell0 =>
    exact (inSave_effects fun v hv hp => .single (.store (.validated v cell1 cell0 hv hp))).works

/-! ### Invariants -/

/-- What each effect keeps, effects one after the other keep. -/
theorem effects_keep {X : State → Prop} (effect : ∀ s t, Effect s t → X s → X t) {s t : State} (h : Effects s t)
    (hs : X s) : X t := by
  induction h with
  | refl => exact hs
  | tail _ he ih => exact effect _ _ he ih

/-- An invariant that no transport, no derived level and no command that waits tells apart, and that a part reset and each
effect keep, is kept by every step. -/
theorem step_keeps {X : State → Prop} (waiting : ∀ (s : State) l, X s → X { s with pending := l })
    (transports : ∀ (s : State) a b c, X s → X { s with spiA := a, spiB := b, i2c := c })
    (settle : ∀ s : State, X s → X s.settle)
    (reset : ∀ (s : State) cause addr cut, X s → X (s.partReset cause addr cut))
    (effect : ∀ s t, Effect s t → X s → X t) {s t : State} (hs : X s) (h : step s = .next t) : X t := by
  unfold step at h
  split at h
  · cases h; exact hs
  · next c rest _ =>
    by_cases hc : ∃ cause addr cut, c = .partReset cause addr cut
    · obtain ⟨cause, addr, cut, rfl⟩ := hc
      cases h
      exact settle _ (reset _ cause addr cut (waiting s rest hs))
    · obtain ⟨u, hu, v, x, y, z, hv, rfl⟩ := exec_works c { s with pending := rest } fun cause addr cut e =>
        hc ⟨cause, addr, cut, e⟩
      rw [hu] at h
      cases h
      exact settle _ (transports v x y z (effects_keep effect hv (waiting s rest hs)))

end State

end Sys2Proof.Machine
end

section
/-! SUPPORT. What the link's work leaves alone: the scheduler, the link engine, the slot table, the process image, the window unit
and the capture unit change neither the store, the settings, the roles nor the transports, and a slot only as its health and its
record allow. -/

namespace Sys2Proof.Machine

/-- A slot's record is FRESH or STALE only while the slot is ACTIVE or SUSPECT (R62). -/
def Slot.RecordFits (x : Slot) : Prop := x.input.state = .fresh ∨ x.input.state = .stale → x.health.state.linked = true

/-- What the link's work does to a slot. -/
structure Slot.Follows (x y : Slot) : Prop where
  config : y.config = x.config
  owner : y.owner = x.owner
  off : x.health.state = .disabled → y.health.state = .disabled
  record : x.RecordFits → y.RecordFits

/-- What the link's work does to the state. -/
structure LinkFrame (s t : State) : Prop where
  store : t.store = s.store
  config : t.config = s.config
  roles : t.roles = s.roles
  ready : t.ready = s.ready
  pending : t.pending = s.pending
  spiA : t.spiA = s.spiA
  spiB : t.spiB = s.spiB
  i2c : t.i2c = s.i2c
  slots : ∀ i, Slot.Follows (s.slot i) (t.slot i)
  ring : s.RingSound → t.RingSound

namespace Slot.Follows

theorem refl (x : Slot) : Slot.Follows x x := ⟨rfl, rfl, id, id⟩

theorem trans {x y z : Slot} (h : Slot.Follows x y) (k : Slot.Follows y z) : Slot.Follows x z :=
  ⟨k.config.trans h.config, k.owner.trans h.owner, k.off ∘ h.off, k.record ∘ h.record⟩

end Slot.Follows

namespace LinkFrame

theorem refl (s : State) : LinkFrame s s := ⟨rfl, rfl, rfl, rfl, rfl, rfl, rfl, rfl, fun _ => .refl _, id⟩

theorem trans {s t u : State} (h : LinkFrame s t) (k : LinkFrame t u) : LinkFrame s u :=
  ⟨k.store.trans h.store, k.config.trans h.config, k.roles.trans h.roles, k.ready.trans h.ready,
    k.pending.trans h.pending, k.spiA.trans h.spiA, k.spiB.trans h.spiB, k.i2c.trans h.i2c,
    fun i => (h.slots i).trans (k.slots i), k.ring ∘ h.ring⟩

end LinkFrame

/-! ### The capture ring -/

namespace State

/-- The longest run of unread records is the number that no port exceeds and some port has. -/
theorem mostUnread_eq {s : State} {m : Nat} (le : ∀ p, (s.port p).unread ≤ m) (attained : ∃ p, (s.port p).unread = m) :
    s.mostUnread = m := by
  obtain ⟨q, hq⟩ := s.mostUnread_attained
  obtain ⟨p, rfl⟩ := attained
  exact Nat.le_antisymm (hq ▸ le q) (s.unread_le_mostUnread p)

theorem unread_congr {c d : PortContext} (h : d.cursor = c.cursor) : d.unread = c.unread := by
  unfold PortContext.unread; rw [h]

theorem mostUnread_congr {s t : State} (h : ∀ p, (t.port p).cursor = (s.port p).cursor) :
    t.mostUnread = s.mostUnread := by
  obtain ⟨q, hq⟩ := s.mostUnread_attained
  exact mostUnread_eq (fun p => by rw [unread_congr (h p)]; exact s.unread_le_mostUnread p)
    ⟨q, by rw [unread_congr (h q), hq]⟩

/-- The ring's bounds depend on the capture unit and the cursors alone. -/
theorem ringSound_of_eq {s t : State} (cursors : ∀ p, (t.port p).cursor = (s.port p).cursor)
    (capture : t.capture = s.capture) (h : s.RingSound) : t.RingSound := by
  unfold RingSound
  rw [mostUnread_congr cursors, capture]
  exact h

theorem unread_of_not_subscribed {c : PortContext} (h : c.cursor = none) : c.unread = 0 := by
  simp [PortContext.unread, h]

/-- One record more in the ring is one more unread by the ports that are subscribed. -/
theorem captureRecordedOnce_mostUnread {s : State} (x : Source) (h : s.HasSubscriber) :
    (s.captureRecordedOnce x).mostUnread = s.mostUnread + 1 := by
  have port : ∀ p, (s.captureRecordedOnce x).port p = (s.port p).append := by intro p; cases p <;> rfl
  refine mostUnread_eq (fun p => ?_) ?_
  · rw [port, PortContext.append_unread]
    have := s.unread_le_mostUnread p
    split <;> omega
  · obtain ⟨q, hq⟩ := s.mostUnread_attained
    by_cases hc : (s.port q).cursor = none
    · obtain ⟨p, hp⟩ := h
      refine ⟨p, ?_⟩
      have h0 := unread_of_not_subscribed hc
      have := s.unread_le_mostUnread p
      rw [port, PortContext.append_unread, if_pos (Option.isSome_iff_ne_none.mpr hp)]
      omega
    · refine ⟨q, ?_⟩
      rw [port, PortContext.append_unread, if_pos (Option.isSome_iff_ne_none.mpr hc), hq]

theorem takeCapture_ringSound {s : State} (x : Source) (h : s.RingSound) : (s.takeCapture x).RingSound := by
  obtain ⟨bound, longest⟩ := h
  rcases s.takeCapture_cases x with ⟨_, e⟩ | ⟨_, _, e⟩ | ⟨hs, hr, e⟩
  · rw [e]; exact ⟨bound, longest⟩
  · rw [e]; exact ringSound_of_eq (s := { s with capture := s.captureLostOnce.capture })
      (fun p => by cases p <;> rfl) rfl ⟨bound, longest⟩
  · rw [e]
    have len : (s.captureRecordedOnce x).capture.ring.length = s.capture.ring.length + 1 := by
      simp [captureRecordedOnce]
    refine ⟨?_, ?_⟩
    · rw [len]; exact hr
    · rw [len, captureRecordedOnce_mostUnread x hs, longest]

/-- Reclaim makes the ring as long as the longest run of unread records. -/
theorem reclaim_ringSound {s : State} (bound : s.capture.ring.length ≤ 8) (le : s.mostUnread ≤ s.capture.ring.length) :
    s.reclaim.RingSound := by
  have len := s.reclaim_ring_length
  refine ⟨?_, ?_⟩
  · rw [len]; exact (Nat.min_le_left _ _).trans bound
  · rw [len, reclaim_mostUnread]; exact Nat.min_eq_right le

/-! ### Updates of one part -/

/-- Work on the ports that keeps the cursors, and on the engine, the scheduler, the requests and the toggle phase. -/
theorem work_frame (s : State) {ports : PerPort PortContext} (engine : Engine) (handed : Option Handed)
    (sched : Scheduler) (queue : List Request) (out : Option Request) (phase : Bool)
    (cursor : ∀ p, (ports.get p).cursor = (s.port p).cursor) :
    LinkFrame s { s with
      ports := ports, engine := engine, handed := handed, sched := sched, queue := queue, out := out, phase := phase } :=
  ⟨rfl, rfl, rfl, rfl, rfl, rfl, rfl, rfl, fun _ => .refl _, ringSound_of_eq cursor rfl⟩

theorem engine_frame (s : State) (engine : Engine) (handed : Option Handed) (out : Option Request) :
    LinkFrame s { s with engine := engine, handed := handed, out := out } :=
  s.work_frame engine handed s.sched s.queue out s.phase fun _ => rfl

theorem queue_frame (s : State) (queue : List Request) (out : Option Request) :
    LinkFrame s { s with queue := queue, out := out } :=
  s.work_frame s.engine s.handed s.sched queue out s.phase fun _ => rfl

theorem modSched_frame (s : State) (f : Scheduler → Scheduler) : LinkFrame s (s.modSched f) :=
  s.work_frame s.engine s.handed _ s.queue s.out s.phase fun _ => rfl

theorem phase_frame (s : State) (b : Bool) : LinkFrame s { s with phase := b } :=
  s.work_frame s.engine s.handed s.sched s.queue s.out b fun _ => rfl

theorem modPort_cursor {s : State} {p : Port} {f : PortContext → PortContext} (h : ∀ c, (f c).cursor = c.cursor)
    (q : Port) : ((s.modPort p f).port q).cursor = (s.port q).cursor := by
  rw [modPort_port]
  split
  · next e => rw [h, e]
  · rfl

theorem modPort_frame (s : State) (p : Port) {f : PortContext → PortContext} (h : ∀ c, (f c).cursor = c.cursor) :
    LinkFrame s (s.modPort p f) :=
  s.work_frame s.engine s.handed s.sched s.queue s.out s.phase (modPort_cursor h)

theorem modPorts_frame (s : State) {f : PortContext → PortContext} (h : ∀ c, (f c).cursor = c.cursor) :
    LinkFrame s (s.modPorts f) :=
  s.work_frame s.engine s.handed s.sched s.queue s.out s.phase fun p => by
    rw [PerPort.get_map, h, port_def]

theorem raise_frame (s : State) (e : Event) (p : Port) : LinkFrame s (s.raise e p) := s.modPort_frame p fun _ => rfl

theorem raiseAll_frame (s : State) (e : Event) : LinkFrame s (s.raiseAll e) := s.modPorts_frame fun _ => rfl

theorem modWindow_frame (s : State) (p : Port) (w : Fin 4) (f : Window → Window) : LinkFrame s (s.modWindow p w f) :=
  s.modPort_frame p fun _ => rfl

theorem failWindow_frame (s : State) (p : Port) (w : Fin 4) (c : Cause) (d : Byte) :
    LinkFrame s (s.failWindow p w c d) := (s.modWindow_frame p w _).trans (raise_frame _ _ _)

theorem finishWindow_frame (s : State) (p : Port) (w : Fin 4) : LinkFrame s (s.finishWindow p w) :=
  (s.modWindow_frame p w _).trans (raise_frame _ _ _)

/-- Work on the slots alone. -/
theorem slots_frame {s : State} {v : Vector Slot 16} (h : ∀ i : Fin 16, Slot.Follows (s.slot i) v[i]) :
    LinkFrame s { s with slots := v } :=
  ⟨rfl, rfl, rfl, rfl, rfl, rfl, rfl, rfl, h, ringSound_of_eq (fun _ => rfl) rfl⟩

theorem modSlot_frame {s : State} {i : Fin 16} {f : Slot → Slot} (h : Slot.Follows (s.slot i) (f (s.slot i))) :
    LinkFrame s (s.modSlot i f) := by
  refine slots_frame (v := (s.modSlot i f).slots) fun j => ?_
  have e := s.modSlot_slot i j f
  unfold slot at e
  rw [e]
  split
  · next hj => subst hj; exact h
  · exact .refl _

theorem modSlots_frame {s : State} {f : Slot → Slot} (h : ∀ x, Slot.Follows x (f x)) : LinkFrame s (s.modSlots f) := by
  refine slots_frame (v := (s.modSlots f).slots) fun j => ?_
  have e := s.modSlots_slot f j
  unfold slot at e
  rw [e]
  exact h _

theorem changeSlot_frame {s : State} {i : Fin 16} {f : Slot → Slot} (h : Slot.Follows (s.slot i) (f (s.slot i))) :
    LinkFrame s (s.changeSlot i f) := by
  rw [changeSlot_eq]
  exact (modSlot_frame h).trans (modPorts_frame _ fun _ => rfl)

theorem changeSlots_frame {s : State} {f : Slot → Slot} (h : ∀ x, Slot.Follows x (f x)) :
    LinkFrame s (s.changeSlots f) := by
  rw [changeSlots_eq]
  exact (modSlots_frame h).trans (modPorts_frame _ fun _ => rfl)

end State

/-! ### The slots -/

theorem Health.cycleEnd_disabled {h : Health} (hd : h.state = .disabled) : h.cycleEnd = h := by
  simp [Health.cycleEnd, hd]

theorem Health.cycleEnd_linked {h : Health} (hl : h.state.linked = true) : h.cycleEnd = h := by
  have : h.state ≠ .backoff := fun e => by rw [e] at hl; cases hl
  simp [Health.cycleEnd, this]

/-- Only a FRESH or STALE record is FRESH or STALE after a cycle end (R66). -/
theorem derivedState_fits {x : RecordState} {age limit : Byte}
    (h : derivedState x age limit = .fresh ∨ derivedState x age limit = .stale) : x = .fresh ∨ x = .stale := by
  cases x
  case never => rcases h with h | h <;> cases h
  case fresh => exact .inl rfl
  case stale => exact .inr rfl
  case lost => rcases h with h | h <;> cases h

theorem Slot.cycleEnd_follows (limit : Byte) (x : Slot) : Slot.Follows x (x.cycleEnd limit) := by
  refine ⟨rfl, rfl, fun h => ?_, fun h k => ?_⟩
  · exact (congrArg Health.state (Health.cycleEnd_disabled h)).trans h
  · have hl := h (derivedState_fits k)
    exact (congrArg (·.state.linked) (Health.cycleEnd_linked hl)).trans hl

theorem Slot.stop_follows (x : Slot) : Slot.Follows x x.stop := by
  rw [State.slot_stop_eq]
  refine ⟨rfl, rfl, fun h => by simp [h], fun _ k => ?_⟩
  simp only at k
  split at k
  · rcases k with k | k <;> cases k
  · next hn => exact absurd k hn

theorem Slot.disable_follows (x : Slot) : Slot.Follows x x.disable :=
  ⟨rfl, rfl, fun _ => rfl, fun _ k => by rcases k with k | k <;> cases k⟩

theorem Slot.restart_follows {x : Slot} (h : x.health.state = .lockedOut) :
    Slot.Follows x { x with health := x.health.restart } := by
  refine ⟨rfl, rfl, fun k => ?_, fun hr k => ?_⟩
  · rw [h] at k; cases k
  · exact absurd (hr k) (by rw [h]; decide)

/-- A report on a DISABLED slot is discarded (R41). -/
theorem Health.report_disabled {h : Health} (cfg : SlotConfig) (c : LiveConfig) (k : Kind) (d : Decision)
    (hd : h.state = .disabled) : h.report cfg c k d = h := if_pos hd

/-- A report takes an ACTIVE or SUSPECT slot to no other state than BACKOFF, by loss (R49 to R51). -/
theorem Health.report_linked {h : Health} (cfg : SlotConfig) (c : LiveConfig) (k : Kind) (d : Decision)
    (hl : h.state.linked = true) :
    (h.report cfg c k d).state.linked = true ∨ (h.report cfg c k d).state = .backoff := by
  have hd : h.state ≠ .disabled := fun e => by rw [e] at hl; cases hl
  unfold Health.report
  rw [if_neg hd]
  rcases (HealthState.linked_iff _).mp hl with e | e
  · cases d with
    | success r => left; simp [Health.good, e, HealthState.linked]
    | failed f =>
      simp only [Health.failure, e]
      split
      · left; simp [HealthState.linked]
      · unfold Health.activeFailure
        split
        · right; rfl
        · left; rfl
  · cases d with
    | success r =>
      left
      simp only [Health.good, e]
      split <;> simp [HealthState.linked]
    | failed f =>
      simp only [Health.failure, e]
      split
      · left; simp [HealthState.linked]
      · unfold Health.suspectFailure
        split
        · left; simp [HealthState.linked]
        · right; rfl

/-- A report that is a loss: the slot's record is LOST (R51, R69). -/
theorem Slot.lost_follows (x : Slot) (c : LiveConfig) (k : Kind) (d : Decision) :
    Slot.Follows x { x with health := x.health.report x.config c k d, input := x.input.lose } :=
  ⟨rfl, rfl, fun h => (congrArg Health.state (Health.report_disabled _ _ _ _ h)).trans h, fun _ hk => by
    rcases hk with hk | hk <;> cases hk⟩

/-- A report that is no loss. -/
theorem Slot.reported_follows {x : Slot} {c : LiveConfig} {k : Kind} {d : Decision}
    (h : lossBy x.health (x.health.report x.config c k d) = false) :
    Slot.Follows x { x with health := x.health.report x.config c k d } := by
  refine ⟨rfl, rfl, fun h => (congrArg Health.state (Health.report_disabled _ _ _ _ h)).trans h, fun hr hk => ?_⟩
  have hl := hr hk
  rcases Health.report_linked x.config c k d hl with e | e
  · exact e
  · simp [lossBy, hl, e] at h

theorem Slot.updated_follows {x : Slot} (r : Reply) (h : x.health.state.linked = true) :
    Slot.Follows x { x with input := x.input.apply x.config r } :=
  ⟨rfl, rfl, id, fun _ _ => h⟩

namespace State

/-! ### The scheduler -/

theorem takeCapture_frameLink (s : State) (x : Source) : LinkFrame s (s.takeCapture x) := by
  obtain ⟨slots, -, config, -, -, -, -, store, roles, ready, -, pending, -, spiA, spiB, i2c, -, -⟩ := s.takeCapture_frame x
  refine ⟨store, config, roles, ready, pending, spiA, spiB, i2c, fun i => ?_, takeCapture_ringSound x⟩
  unfold slot
  rw [slots]
  exact .refl _

theorem hand_frameLink (s : State) (k : Kind) (i : Fin 16) : LinkFrame s (s.hand k i) := by
  obtain ⟨engine, handed, e⟩ := s.hand_frame k i
  rw [e]
  exact s.engine_frame engine handed s.out

theorem planTurn_frame {s t : State} {plan : List (Fin 16)} (h : s.planTurn plan = some t) : LinkFrame s t := by
  rcases s.planTurn_cases plan with e | ⟨k, j, rest, -, -, e⟩
  · rw [e] at h; cases h
  · rw [e] at h; cases h
    exact (s.modSched_frame _).trans (hand_frameLink _ _ _)

theorem acyclicTurn_frame {s t : State} (h : s.acyclicTurn = some t) : LinkFrame s t := by
  unfold acyclicTurn at h
  split at h
  · cases h
  · next r rest _ =>
    split at h
    · cases h
      refine (s.queue_frame rest (some r)).trans (.trans ?_ (hand_frameLink _ _ _))
      exact .trans (modSched_frame _ _) (modWindow_frame _ _ _ _)
    · cases h

theorem endCycle_frame (s : State) : LinkFrame s s.endCycle :=
  (changeSlots_frame (Slot.cycleEnd_follows s.config.staleLimit)).trans
    ((modSched_frame _ _).trans (phase_frame _ _))

theorem beginCycle_frame (s : State) : LinkFrame s s.beginCycle := by
  have timer : ∀ u : State, LinkFrame u u.timerCapture := fun u => by
    unfold timerCapture
    split
    · exact u.takeCapture_frameLink _
    · exact .refl u
  unfold beginCycle
  exact .trans (.trans (modSched_frame _ _) (timer _)) (modSched_frame _ _)

theorem turns_frame (n : Nat) (s : State) : LinkFrame s (s.turns n) := by
  induction n generalizing s with
  | zero => exact .refl s
  | succ n ih =>
    unfold turns
    split
    · next t h => exact planTurn_frame h
    · split
      · next t h => exact acyclicTurn_frame h
      · dsimp only
        split
        · exact s.endCycle_frame.trans ((modSched_frame _ _).trans ((beginCycle_frame _).trans (ih _)))
        · exact s.endCycle_frame

theorem nextTurn_frame (s : State) : LinkFrame s s.nextTurn := s.turns_frame 2

theorem startCycle_frame (s : State) : LinkFrame s s.startCycle := s.beginCycle_frame.trans (nextTurn_frame _)

theorem startLink_frame (s : State) : LinkFrame s s.startLink :=
  (s.modSched_frame _).trans ((raiseAll_frame _ _).trans (startCycle_frame _))

/-! ### The requests -/

theorem removeRequests_frameLink (s : State) (gone : Request → Bool) (c : Cause) :
    LinkFrame s (s.removeRequests gone c) := by
  rw [removeRequests_eq]
  exact s.work_frame s.engine s.handed s.sched _ s.out s.phase fun p => by cases p <;> rfl

theorem endCancelling_frame (s : State) (p : Port) (w : Fin 4) : LinkFrame s (s.endCancelling p w) := by
  unfold endCancelling
  split
  · exact s.modWindow_frame p w _
  · exact s.failWindow_frame p w _ _

theorem dropOut_frame (s : State) (c : Cause) : LinkFrame s (s.dropOut c) := by
  unfold dropOut
  split
  · exact .refl s
  · have out := s.queue_frame s.queue none
    dsimp only
    split
    · exact out.trans (failWindow_frame _ _ _ _ _)
    · exact out.trans (endCancelling_frame _ _ _)
    all_goals exact out

theorem withdraw_frame (s : State) (c : Cause) : LinkFrame s (s.withdraw c) := by
  unfold withdraw
  split
  · exact .refl s
  · have handed := s.engine_frame s.engine none s.out
    dsimp only
    split
    · exact handed
    · exact handed
    · exact handed.trans (dropOut_frame _ _)
    · exact handed.trans (dropOut_frame _ _)

theorem rejoin_frame (s : State) (r : Request) : LinkFrame s (s.rejoin r) := by
  unfold rejoin
  split
  · exact s.failWindow_frame _ _ _ _
  · split
    · exact s.failWindow_frame _ _ _ _
    · split
      · exact s.failWindow_frame _ _ _ _
      · exact (s.modWindow_frame _ _ _).trans (queue_frame _ _ _)

theorem goodReply_frame (s : State) (r : Request) (busy : Bool) (payload : List Byte) :
    LinkFrame s (s.goodReply r busy payload) := by
  unfold goodReply
  split
  · exact s.rejoin_frame r
  · split
    · exact s.failWindow_frame _ _ _ _
    · split
      · exact (s.modWindow_frame _ _ _).trans (finishWindow_frame _ _ _)
      · exact s.finishWindow_frame _ _

theorem windowReport_frame (s : State) (d : Decision) : LinkFrame s (s.windowReport d) := by
  unfold windowReport
  split
  · exact .refl s
  · have out := s.queue_frame s.queue none
    dsimp only
    split
    · split
      · exact out.trans (goodReply_frame _ _ _ _)
      · exact out.trans (failWindow_frame _ _ _ _ _)
    · exact out.trans (endCancelling_frame _ _ _)
    all_goals exact out

/-! ### Reports, and the link's end -/

theorem healthEvidence_frame (s : State) (i : Fin 16) (k : Kind) (d : Decision) :
    LinkFrame s (s.healthEvidence i k d) := by
  unfold healthEvidence
  dsimp only
  split
  · refine .trans (changeSlot_frame ?_) (removeRequests_frameLink _ _ _)
    exact Slot.lost_follows _ _ _ _
  · next h =>
    refine changeSlot_frame ?_
    exact Slot.reported_follows (by simpa using h)

theorem applyCyclic_frame (s : State) (i : Fin 16) (r : Reply) : LinkFrame s (s.applyCyclic i r) := by
  unfold applyCyclic
  split
  · next h =>
    have updated : LinkFrame s (s.modSlot i fun x => { x with input := x.input.apply x.config r }) :=
      modSlot_frame (Slot.updated_follows r h)
    dsimp only
    split
    · exact updated.trans (takeCapture_frameLink _ _)
    · exact updated
  · exact .refl s

theorem passReport_frame (s : State) (k : Kind) (i : Fin 16) (d : Decision) : LinkFrame s (s.passReport k i d) := by
  unfold passReport
  split
  · unfold passDiscarded
    have mark := s.modSched_frame fun c => { c with discard := false }
    cases k
    · exact mark
    · exact mark
    · exact mark.trans (dropOut_frame _ _)
    · exact mark.trans (dropOut_frame _ _)
  · refine (s.healthEvidence_frame i k d).trans ?_
    unfold passContents
    cases k
    · cases d
      · exact applyCyclic_frame _ _ _
      · exact .refl _
    · exact .refl _
    · exact windowReport_frame _ _
    · exact windowReport_frame _ _

theorem enterStopped_frame (s : State) : LinkFrame s s.enterStopped := by
  unfold enterStopped
  refine .trans (.trans ?_ (modSched_frame _ _)) (phase_frame _ _)
  refine .trans (.trans ?_ (changeSlots_frame Slot.stop_follows)) (raiseAll_frame _ _)
  exact (s.withdraw_frame _).trans (removeRequests_frameLink _ _ _)

theorem complete_frame (s : State) (p : Port) (code : Byte) (r : Result) (d : Byte) :
    LinkFrame s (s.complete p code r d) := by
  unfold complete
  split
  · refine .trans ?_ (raise_frame _ _ _)
    exact s.modPort_frame p fun _ => rfl
  · exact .refl s

theorem tellWaiter_frame (s : State) (p : Port) : LinkFrame s (s.tellWaiter p) := by
  unfold tellWaiter
  split
  · exact (s.modSched_frame _).trans (complete_frame _ _ _ _ _)
  · exact .refl s

theorem endStopping_frame (s : State) : LinkFrame s s.endStopping :=
  s.enterStopped_frame.trans ((tellWaiter_frame _ _).trans ((tellWaiter_frame _ _).trans (tellWaiter_frame _ _)))

theorem decideOutcome_frame (s : State) (x : Exchange) (d : Decision) : LinkFrame s (s.decideOutcome x d) := by
  unfold decideOutcome
  refine .trans (.trans (s.engine_frame (.quiet x.rate .quietEntry) s.handed s.out)
    (passReport_frame _ x.kind x.slot d)) ?_
  unfold afterReport
  split
  · exact nextTurn_frame _
  · exact endStopping_frame _
  · exact .refl _

theorem markDiscard_frame (s : State) (i : Fin 16) : LinkFrame s (s.markDiscard i) := by
  rw [markDiscard_eq]
  exact s.modSched_frame _

theorem withdrawDisabled_frame (s : State) (i : Fin 16) : LinkFrame s (s.withdrawDisabled i) := by
  unfold withdrawDisabled
  split
  · split
    · dsimp only
      split
      · exact (withdraw_frame _ _).trans (nextTurn_frame _)
      · exact withdraw_frame _ _
    · exact .refl _
  · exact .refl _

theorem disableSlot_frame (s : State) (i : Fin 16) : LinkFrame s (s.disableSlot i) := by
  have left : LinkFrame s ((s.changeSlot i (·.disable)).slotLeft i) :=
    .trans (changeSlot_frame (Slot.disable_follows _)) (removeRequests_frameLink _ _ _)
  exact left.trans ((markDiscard_frame _ i).trans (withdrawDisabled_frame _ i))

theorem enterReady_frame (s : State) : LinkFrame s s.enterReady := by
  unfold enterReady
  split
  · exact s.engine_frame _ s.handed s.out
  · exact s.engine_frame _ _ s.out

/-! ### Windows and subscriptions -/

theorem cancelWindow_frame (s : State) (p : Port) (w : Fin 4) : LinkFrame s (s.cancelWindow p w) := by
  unfold cancelWindow
  split
  · exact (s.queue_frame _ s.out).trans (failWindow_frame _ _ _ _ _)
  · exact s.modWindow_frame p w _
  all_goals exact .refl s

theorem clearWindows_frame (s : State) (p : Port) : LinkFrame s (s.clearWindows p) := by
  unfold clearWindows
  refine .trans ?_ (queue_frame _ _ _)
  exact s.modPort_frame p fun _ => rfl

theorem enqueue_frame (s : State) (p : Port) (w : Fin 4) (k : RequestKind) : LinkFrame s (s.enqueue p w k) := by
  unfold enqueue
  exact .trans (modWindow_frame _ _ _ _) (queue_frame _ _ _)

/-- A change of one port's cursor, followed by a reclaim or none. -/
theorem cursor_frame (s : State) (p : Port) (f : PortContext → PortContext)
    (capture : Capture) (ring : s.RingSound → ({ s.modPort p f with capture := capture } : State).RingSound) :
    LinkFrame s { s.modPort p f with capture := capture } :=
  ⟨rfl, rfl, rfl, rfl, rfl, rfl, rfl, rfl, fun _ => .refl _, ring⟩

/-- A cursor with no more unread than before keeps the longest run within the ring. -/
theorem modPort_mostUnread_le {s : State} {p : Port} {f : PortContext → PortContext}
    (h : (f (s.port p)).unread ≤ (s.port p).unread) : (s.modPort p f).mostUnread ≤ s.mostUnread := by
  obtain ⟨q, hq⟩ := (s.modPort p f).mostUnread_attained
  rw [← hq, modPort_port]
  split
  · exact h.trans (s.unread_le_mostUnread p)
  · exact s.unread_le_mostUnread q

theorem modPort_reclaim_ringSound {s : State} {p : Port} {f : PortContext → PortContext}
    (h : (f (s.port p)).unread ≤ (s.port p).unread) (hs : s.RingSound) : (s.modPort p f).reclaim.RingSound :=
  reclaim_ringSound hs.1 (by rw [modPort_capture, hs.2]; exact modPort_mostUnread_le h)

theorem subscribe_frame (s : State) (p : Port) : LinkFrame s (s.subscribe p) := by
  unfold subscribe
  split
  · exact .refl s
  · next h =>
    have none : (s.port p).cursor = none := by simpa using h
    refine ⟨rfl, rfl, rfl, rfl, rfl, rfl, rfl, rfl, fun _ => .refl _, fun hs => ?_⟩
    refine ⟨hs.1, hs.2.trans (mostUnread_eq (fun q => ?_) ?_).symm⟩
    · show ((s.modPort p _).port q).unread ≤ _
      rw [modPort_port]
      split
      · exact Nat.zero_le _
      · exact s.unread_le_mostUnread q
    · obtain ⟨q, hq⟩ := s.mostUnread_attained
      refine ⟨q, ?_⟩
      show ((s.modPort p _).port q).unread = _
      rw [modPort_port]
      split
      · next e =>
        rw [← hq, e]
        exact (unread_of_not_subscribed none).symm
      · exact hq

theorem unsubscribe_frame (s : State) (p : Port) : LinkFrame s (s.unsubscribe p) := by
  unfold unsubscribe
  split
  · exact s.cursor_frame p _ _ (modPort_reclaim_ringSound (Nat.zero_le _))
  · exact .refl s

theorem advancePast_frame (s : State) (p : Port) (r : CaptureRecord) : LinkFrame s (s.advancePast p r) :=
  s.cursor_frame p _ _ (modPort_reclaim_ringSound (Nat.sub_le _ 1))

/-! ### Start-up -/

/-- A slot at a start-up enable: left, or enabled with its configuration and owner kept (R58). -/
theorem startUpEnable_cases (s : State) (i : Fin 16) :
    s.startUpEnable i = s ∨
      ((s.slot i).config.enableAtStart = true ∧ s.addressValid i = true ∧ s.addressHolder i = none ∧
        s.startUpEnable i = s.changeSlot i (·.enable)) := by
  unfold startUpEnable
  split
  · next h =>
    simp only [Bool.and_eq_true, Option.isNone_iff_eq_none] at h
    exact .inr ⟨h.1.1, h.1.2, h.2, rfl⟩
  · exact .inl rfl

end State

end Sys2Proof.Machine
end

section
/-! SUPPORT. What every effect keeps of the store, the settings, the owners, the addresses, the records and the ring, and the
invariants that every step therefore keeps. -/

namespace Sys2Proof.Machine

namespace State

/-- Every change of what the link engine has to do is the link's work. -/
theorem link_frame {s t : State} (h : LinkEffect s t) : LinkFrame s t := by
  cases h with
  | disable i _ => exact s.disableSlot_frame i
  | linkStarts _ _ => exact s.startLink_frame
  | linkStopping _ _ => exact s.modSched_frame _
  | linkStops _ _ => exact s.enterStopped_frame
  | engine e _ _ => exact s.engine_frame e s.handed s.out
  | engineReady _ => exact s.enterReady_frame
  | decided x d _ => exact s.decideOutcome_frame x d
  | cycle _ _ => exact s.startCycle_frame

/-- Every effect is the link's work, a change of the configuration or a step of a save. -/
theorem effect_frame {s t : State} (h : Effect s t) : LinkFrame s t ∨ ConfigEffect s t ∨ StoreEffect s t := by
  cases h with
  | config h => exact .inr (.inl h)
  | store h => exact .inr (.inr h)
  | link h => exact .inl (link_frame h)
  | context p f _ cursor => exact .inl (s.modPort_frame p cursor)
  | flag e => exact .inl (s.raiseAll_frame e)
  | capt l => exact .inl ⟨rfl, rfl, rfl, rfl, rfl, rfl, rfl, rfl, fun _ => .refl _, ringSound_of_eq (fun _ => rfl) rfl⟩
  | capture x => exact .inl (s.takeCapture_frameLink x)
  | restart i locked => exact .inl (changeSlot_frame (Slot.restart_follows locked))
  | window p w f _ => exact .inl (s.modWindow_frame p w f)
  | windowFails p w c d _ => exact .inl (s.failWindow_frame p w c d)
  | request p w k _ _ _ => exact .inl (s.enqueue_frame p w k)
  | cancel p w => exact .inl (s.cancelWindow_frame p w)
  | windowsClear p => exact .inl (s.clearWindows_frame p)
  | subscribe p => exact .inl (s.subscribe_frame p)
  | unsubscribe p => exact .inl (s.unsubscribe_frame p)
  | advance p r _ => exact .inl (s.advancePast_frame p r)
  | counts f _ _ => exact .inl (s.modSched_frame f)

/-- The part once the slots marked for it are enabled at start-up (R169, steps 2 to 4). -/
def startUpEnabled (s : State) : State :=
  allSlots.foldl (fun x i => x.startUpEnable i) { s.loadConfig with roles := forcedRoles s.loadConfig.config.roles }

/-- The part once the link has started at start-up, if it is to (R169, step 5). -/
def startUpLinked (s : State) : State :=
  if s.startUpEnabled.config.autoStart then s.startUpEnabled.startLink else s.startUpEnabled

theorem startUp_eq (s : State) : s.startUp = { s.startUpLinked with ready := true } := by
  unfold startUp
  extract_lets t u v w
  have enabled : v = s.startUpEnabled := rfl
  have linked : w = s.startUpLinked := by unfold startUpLinked; rw [← enabled]
  rw [linked]

/-- What the load leaves and each enable keeps stands before the link may start. -/
theorem startUpEnabled_keeps {X : State → Prop} {s : State}
    (loaded : X { s.loadConfig with roles := forcedRoles s.loadConfig.config.roles })
    (enable : ∀ (t : State) i, t.addressHolder i = none → X t → X (t.changeSlot i (·.enable))) : X s.startUpEnabled := by
  refine List.foldlRecOn (motive := X) _ _ loaded fun t ht i _ => ?_
  rcases t.startUpEnable_cases i with e | ⟨-, -, free, e⟩
  · rw [e]; exact ht
  · rw [e]; exact enable t i free ht

theorem startUp_keeps {X : State → Prop} {s : State}
    (loaded : X { s.loadConfig with roles := forcedRoles s.loadConfig.config.roles })
    (enable : ∀ (t : State) i, t.addressHolder i = none → X t → X (t.changeSlot i (·.enable)))
    (link : ∀ t : State, X t → X t.startLink) (ready : ∀ t : State, X t → X { t with ready := true }) : X s.startUp := by
  have enabled := startUpEnabled_keeps loaded enable
  rw [startUp_eq]
  refine ready _ ?_
  unfold startUpLinked
  split
  · exact link _ enabled
  · exact enabled

theorem loadConfig_slot (s : State) (i : Fin 16) :
    ∃ c : SlotConfig, s.loadConfig.slot i = { s.slot i with config := c } ∧
      (c = .default ∨ imageAccepted s.cellBytes = true ∧ c = imageSlot s.cellBytes i) := by
  unfold loadConfig
  dsimp only
  split
  · next h => exact ⟨imageSlot s.cellBytes i, by simp [slot], .inr ⟨h, rfl⟩⟩
  · next h => exact ⟨.default, by simp [slot], .inl rfl⟩

theorem changeSlot_slot_eq (s : State) (i j : Fin 16) (f : Slot → Slot) :
    (s.changeSlot i f).slot j = if j = i then f (s.slot i) else s.slot j := by
  rw [changeSlot_eq]
  exact s.modSlot_slot i j f

/-! ### The capture ring -/

theorem settle_ringSound {s : State} (h : s.RingSound) : s.settle.RingSound :=
  ringSound_of_eq (fun p => by rw [settle_port]) rfl h

theorem partReset_ringSound (s : State) (cause : ResetCause) (addr : Level) (cut : SaveCut) :
    (s.partReset cause addr cut).RingSound := ⟨Nat.zero_le _, rfl⟩

theorem loadConfig_ports (s : State) : s.loadConfig.ports = s.ports := by
  unfold loadConfig
  dsimp only
  split <;> rfl

theorem loadConfig_capture (s : State) : s.loadConfig.capture = s.capture := by
  unfold loadConfig
  dsimp only
  split <;> rfl

theorem loadConfig_frameRing {s : State} {r : PerPort Role} (h : s.RingSound) :
    ({ s.loadConfig with roles := r } : State).RingSound :=
  ringSound_of_eq (fun p => by rw [port_def, port_def]; exact congrArg (fun x => (x.get p).cursor) s.loadConfig_ports)
    s.loadConfig_capture h

theorem changeSlot_ringSound {s : State} {i : Fin 16} {f : Slot → Slot} (h : s.RingSound) : (s.changeSlot i f).RingSound := by
  rw [changeSlot_eq]
  exact ringSound_of_eq (fun p => by cases p <;> rfl) rfl h

theorem config_ringSound {s t : State} (h : ConfigEffect s t) (hs : s.RingSound) : t.RingSound := by
  cases h with
  | startUp _ =>
    exact startUp_keeps (loadConfig_frameRing hs) (fun _ _ _ => changeSlot_ringSound) (fun t => t.startLink_frame.ring)
      fun _ => ringSound_of_eq (fun _ => rfl) rfl
  | setting g v _ => exact ringSound_of_eq (fun _ => rfl) rfl hs
  | slotConfig i f v _ _ => exact ringSound_of_eq (fun _ => rfl) rfl hs
  | claims v _ => exact ringSound_of_eq (fun _ => rfl) rfl hs
  | enable i _ _ _ => exact changeSlot_ringSound hs

/-- The store with its save ended (R173). -/
def saveEnded (x : Store) (good : Bool) : Store :=
  { x with
    state := if good then .valid else .defaulted
    lastSave := if good then .done else .failedVerify
    save := none }

/-- The completion of a save: the store's record of it, and the issuer told (R173). -/
theorem completeSave_frame (s : State) (x : Store) (v : Save) (good : Bool) (d : Byte) :
    LinkFrame { s with store := saveEnded x good } (({ s with store := x } : State).completeSave v good d) := by
  unfold completeSave
  dsimp only
  split
  · exact complete_frame _ _ _ _ _
  · exact .refl _

/-- A step of a save leaves the store's record of it, and its issuer may be told. -/
theorem store_frame {s t : State} (h : StoreEffect s t) : ∃ x : Store, LinkFrame { s with store := x } t := by
  cases h with
  | detached p => exact ⟨_, .refl _⟩
  | starts p _ => exact ⟨_, .refl _⟩
  | erased v _ _ => exact ⟨_, .refl _⟩
  | written v misread _ _ =>
    unfold saveWritten
    dsimp only
    split
    · exact ⟨_, .refl _⟩
    · exact ⟨_, completeSave_frame s _ v false 1⟩
  | validated v cell1 cell0 _ _ =>
    unfold saveValidated
    dsimp only
    split
    · exact ⟨_, completeSave_frame s _ v true 0⟩
    · exact ⟨_, completeSave_frame s _ v false 2⟩

theorem effect_ringSound {s t : State} (h : Effect s t) (hs : s.RingSound) : t.RingSound := by
  rcases effect_frame h with h | h | h
  · exact h.ring hs
  · exact config_ringSound h hs
  · obtain ⟨x, e⟩ := store_frame h
    exact e.ring (ringSound_of_eq (fun _ => rfl) rfl hs)

end State

/-- Settles O57: a capture appends one record for every subscriber, and ADVANCE, UNSUBSCRIBE and PORT_CLEAR reclaim what no port
has unread. -/
theorem stepKeepsRingSound : Obligations.StepKeepsRingSound := fun _ _ hs h =>
  State.step_keeps (X := State.RingSound) (fun _ _ => State.ringSound_of_eq (fun _ => rfl) rfl)
    (fun _ _ _ _ => State.ringSound_of_eq (fun _ => rfl) rfl) (fun _ => State.settle_ringSound)
    (fun s cause addr cut _ => s.partReset_ringSound cause addr cut) (fun _ _ => State.effect_ringSound) hs h

namespace State

/-! ### The records -/

theorem recordsFollowHealth_iff (s : State) : s.RecordsFollowHealth ↔ ∀ i, (s.slot i).RecordFits := Iff.rfl

theorem follows_records {s t : State} (h : ∀ i, Slot.Follows (s.slot i) (t.slot i)) (hs : s.RecordsFollowHealth) :
    t.RecordsFollowHealth := fun i => (h i).record (hs i)

theorem enable_records {s : State} (i : Fin 16) (h : s.RecordsFollowHealth) :
    (s.changeSlot i (·.enable)).RecordsFollowHealth := by
  intro j
  rw [changeSlot_slot_eq]
  split
  · intro k
    rcases k with k | k <;> cases k
  · exact h j

theorem reset_slot (i : Fin 16) : State.reset.slot i = .reset := by revert i; decide

theorem partReset_slot (s : State) (cause : ResetCause) (addr : Level) (cut : SaveCut) (i : Fin 16) :
    (s.partReset cause addr cut).slot i = .reset := reset_slot i

theorem config_records {s t : State} (h : ConfigEffect s t) (hs : s.RecordsFollowHealth) : t.RecordsFollowHealth := by
  cases h with
  | startUp _ =>
    refine startUp_keeps (X := RecordsFollowHealth) (fun i => ?_) (fun t i _ => enable_records i)
      (fun t => follows_records t.startLink_frame.slots) fun _ h => h
    obtain ⟨c, e, -⟩ := s.loadConfig_slot i
    show (s.loadConfig.slot i).RecordFits
    rw [e]
    exact hs i
  | setting g v _ => exact hs
  | slotConfig i f v _ _ =>
    intro j
    rw [modSlot_slot]
    split
    · next e => subst e; exact hs j
    · exact hs j
  | claims v change =>
    intro i k
    have c := change i
    have hl := hs i (by rw [← c.record]; exact k)
    exact (congrArg (·.state.linked) c.health).trans hl
  | enable i _ _ _ => exact enable_records i hs

theorem effect_records {s t : State} (h : Effect s t) (hs : s.RecordsFollowHealth) : t.RecordsFollowHealth := by
  rcases effect_frame h with h | h | h
  · exact follows_records h.slots hs
  · exact config_records h hs
  · obtain ⟨x, e⟩ := store_frame h
    exact follows_records e.slots hs

theorem partReset_records (s : State) (cause : ResetCause) (addr : Level) (cut : SaveCut) :
    (s.partReset cause addr cut).RecordsFollowHealth := by
  intro i k
  rw [partReset_slot] at k
  rcases k with k | k <;> cases k

end State

/-- Settles O59: a slot leaves ACTIVE and SUSPECT only by a loss, a stop or a DISABLE, and each of them takes its record out of
FRESH and STALE. -/
theorem stepKeepsRecordsFollowHealth : Obligations.StepKeepsRecordsFollowHealth := fun _ _ hs h =>
  State.step_keeps (X := State.RecordsFollowHealth) (fun _ _ h => h) (fun _ _ _ _ h => h) (fun _ h => h)
    (fun s cause addr cut _ => s.partReset_records cause addr cut) (fun _ _ => State.effect_records) hs h

namespace State

/-! ### The owners -/

/-- No slot has an owner. -/
def Unowned (s : State) : Prop := ∀ i, (s.slot i).owner = none

theorem unowned_of_loading {s : State} (h : s.OwnersDrive) (loading : s.ready = false) : s.Unowned := by
  intro i
  rcases e : (s.slot i).owner with _ | p
  · rfl
  · rw [(h i p e).1] at loading
    cases loading

theorem owners_of_unowned {s : State} (h : s.Unowned) : s.OwnersDrive := by
  intro i p e
  rw [h i] at e
  cases e

theorem follows_owners {s t : State} (h : ∀ i, Slot.Follows (s.slot i) (t.slot i)) (roles : t.roles = s.roles)
    (ready : t.ready = s.ready) (hs : s.OwnersDrive) : t.OwnersDrive := by
  intro i p e
  rw [(h i).owner] at e
  unfold role
  rw [roles, ready]
  exact hs i p e

theorem changeSlot_enable_owner (s : State) (i j : Fin 16) :
    ((s.changeSlot i (·.enable)).slot j).owner = (s.slot j).owner := by
  rw [changeSlot_slot_eq]
  split
  · next e => subst e; rfl
  · rfl

theorem startUp_unowned {s : State} (h : s.Unowned) : s.startUp.Unowned := by
  refine startUp_keeps (X := Unowned) (fun i => ?_) (fun t i _ ht j => ?_) (fun t ht j => ?_) fun _ ht => ht
  · obtain ⟨c, e, -⟩ := s.loadConfig_slot i
    show (s.loadConfig.slot i).owner = none
    rw [e]
    exact h i
  · rw [changeSlot_enable_owner]; exact ht j
  · rw [(t.startLink_frame.slots j).owner]; exact ht j

theorem config_owners {s t : State} (h : ConfigEffect s t) (hs : s.OwnersDrive) : t.OwnersDrive := by
  cases h with
  | startUp loading => exact owners_of_unowned (startUp_unowned (unowned_of_loading hs loading))
  | setting g v _ => exact hs
  | slotConfig i f v _ _ =>
    intro j p e
    rw [modSlot_slot] at e
    split at e
    · next hj => subst hj; exact hs j p e
    · exact hs j p e
  | claims v change =>
    intro i p e
    rcases (change i).owner p e with k | k
    · exact hs i p k
    · exact k
  | enable i ready _ _ =>
    intro j p e
    rw [changeSlot_enable_owner] at e
    rw [changeSlot_eq]
    exact hs j p e

theorem effect_owners {s t : State} (h : Effect s t) (hs : s.OwnersDrive) : t.OwnersDrive := by
  rcases effect_frame h with h | h | h
  · exact follows_owners h.slots h.roles h.ready hs
  · exact config_owners h hs
  · obtain ⟨x, e⟩ := store_frame h
    exact follows_owners e.slots e.roles e.ready hs

theorem partReset_unowned (s : State) (cause : ResetCause) (addr : Level) (cut : SaveCut) :
    (s.partReset cause addr cut).Unowned := fun i => by rw [partReset_slot]; rfl

theorem step_owners {s t : State} (hs : s.OwnersDrive) (h : step s = .next t) : t.OwnersDrive :=
  step_keeps (X := OwnersDrive) (fun _ _ h => h) (fun _ _ _ _ h => h) (fun _ h => h)
    (fun s cause addr cut _ => owners_of_unowned (s.partReset_unowned cause addr cut)) (fun _ _ => effect_owners) hs h

/-! ### The station addresses -/

/-- Every slot is DISABLED. -/
def AllDisabled (s : State) : Prop := ∀ i, (s.slot i).health.state = .disabled

/-- No two slots that are not DISABLED hold one station address. -/
def AddressesDistinct (s : State) : Prop :=
  ∀ i j, i ≠ j → (s.slot i).health.state ≠ .disabled → (s.slot j).health.state ≠ .disabled →
    (s.slot i).config.address ≠ (s.slot j).config.address

theorem addressesUnique_iff (s : State) :
    s.AddressesUnique ↔ (s.ready = false → s.AllDisabled) ∧ s.AddressesDistinct := Iff.rfl

theorem follows_distinct {s t : State} (h : ∀ i, Slot.Follows (s.slot i) (t.slot i)) (hs : s.AddressesDistinct) :
    t.AddressesDistinct := by
  intro i j ne hi hj
  rw [(h i).config, (h j).config]
  exact hs i j ne (fun k => hi ((h i).off k)) fun k => hj ((h j).off k)

/-- A slot without a holder of its address is enabled. -/
theorem enable_distinct {s : State} {i : Fin 16} (free : s.addressHolder i = none) (hs : s.AddressesDistinct) :
    (s.changeSlot i (·.enable)).AddressesDistinct := by
  have other : ∀ j, j ≠ i → (s.slot j).health.state ≠ .disabled →
      (s.slot j).config.address ≠ (s.slot i).config.address := by
    intro j ne on
    have := List.find?_eq_none.mp free j (List.mem_finRange j)
    simpa [ne, on] using this
  intro j k ne hj hk
  simp only [changeSlot_slot_eq] at hj hk ⊢
  by_cases ej : j = i
  · have ek : k ≠ i := fun e => ne (ej.trans e.symm)
    rw [if_neg ek] at hk
    rw [if_pos ej, if_neg ek]
    exact (other k ek hk).symm
  · rw [if_neg ej] at hj
    rw [if_neg ej]
    by_cases ek : k = i
    · rw [if_pos ek]
      exact other j ej hj
    · rw [if_neg ek] at hk
      rw [if_neg ek]
      exact hs j k ne hj hk

theorem startUp_distinct {s : State} (h : s.AllDisabled) : s.startUp.AddressesDistinct := by
  refine startUp_keeps (X := AddressesDistinct) (fun i _ _ hi => ?_) (fun t i => enable_distinct)
    (fun t => follows_distinct t.startLink_frame.slots) fun _ ht => ht
  obtain ⟨c, e, -⟩ := s.loadConfig_slot i
  refine absurd ?_ hi
  show (s.loadConfig.slot i).health.state = .disabled
  rw [e]
  exact h i

theorem startUp_ready (s : State) : s.startUp.ready = true := rfl

/-- Every slot is DISABLED before READY, whatever the link's work. -/
theorem follows_off {s t : State} (h : ∀ i, Slot.Follows (s.slot i) (t.slot i)) (ready : t.ready = s.ready)
    (hs : s.ready = false → s.AllDisabled) : t.ready = false → t.AllDisabled :=
  fun hr i => (h i).off (hs (ready.symm.trans hr) i)

theorem config_off {s t : State} (h : ConfigEffect s t) (hs : s.ready = false → s.AllDisabled) :
    t.ready = false → t.AllDisabled := by
  cases h with
  | startUp _ => intro e; cases e
  | setting g v _ => exact hs
  | slotConfig i f v off _ =>
    intro e j
    rw [modSlot_slot]
    split
    · next hj => subst hj; exact off
    · exact hs e j
  | claims v change => exact fun e i => (congrArg Health.state (change i).health).trans (hs e i)
  | enable i ready _ _ =>
    intro e
    rw [changeSlot_eq] at e
    exact absurd (ready.symm.trans e) (by decide)

theorem effect_off {s t : State} (h : Effect s t) (hs : s.ready = false → s.AllDisabled) :
    t.ready = false → t.AllDisabled := by
  rcases effect_frame h with h | h | h
  · exact follows_off h.slots h.ready hs
  · exact config_off h hs
  · obtain ⟨x, e⟩ := store_frame h
    exact follows_off e.slots e.ready hs

theorem config_addresses {s t : State} (h : ConfigEffect s t) (hs : s.AddressesUnique) : t.AddressesUnique := by
  obtain ⟨off, distinct⟩ := s.addressesUnique_iff.mp hs
  refine t.addressesUnique_iff.mpr ⟨config_off h off, ?_⟩
  cases h with
  | startUp loading => exact startUp_distinct (off loading)
  | setting g v _ => exact distinct
  | slotConfig i f v hi _ =>
    intro j k ne hj hk
    rw [modSlot_slot] at hj hk ⊢
    split at hj
    · exact absurd hi hj
    · split at hk
      · exact absurd hi hk
      · next nj nk => rw [if_neg nj, modSlot_slot, if_neg nk]; exact distinct j k ne hj hk
  | claims v change =>
    intro j k ne hj hk
    rw [show ({ s with slots := v } : State).slot j = v[j] from rfl] at hj ⊢
    rw [show ({ s with slots := v } : State).slot k = v[k] from rfl] at hk ⊢
    rw [(change j).health] at hj
    rw [(change k).health] at hk
    rw [(change j).config, (change k).config]
    exact distinct j k ne hj hk
  | enable i _ _ free => exact enable_distinct free distinct

theorem effect_addresses {s t : State} (h : Effect s t) (hs : s.AddressesUnique) : t.AddressesUnique := by
  obtain ⟨off, distinct⟩ := s.addressesUnique_iff.mp hs
  rcases effect_frame h with k | k | k
  · exact ⟨effect_off h off, follows_distinct k.slots distinct⟩
  · exact config_addresses k hs
  · obtain ⟨x, e⟩ := store_frame k
    exact ⟨effect_off h off, follows_distinct e.slots distinct⟩

theorem partReset_allDisabled (s : State) (cause : ResetCause) (addr : Level) (cut : SaveCut) :
    (s.partReset cause addr cut).AllDisabled := fun i => by rw [partReset_slot]; rfl

theorem allDisabled_addressesUnique {s : State} (h : s.AllDisabled) : s.AddressesUnique :=
  ⟨fun _ => h, fun i _ _ hi => absurd (h i) hi⟩

theorem step_addresses {s t : State} (hs : s.AddressesUnique) (h : step s = .next t) : t.AddressesUnique :=
  step_keeps (X := AddressesUnique) (fun _ _ h => h) (fun _ _ _ _ h => h) (fun _ h => h)
    (fun s cause addr cut _ => allDisabled_addressesUnique (s.partReset_allDisabled cause addr cut))
    (fun _ _ => effect_addresses) hs h

end State

/-- Settles O58: CLAIM alone gives an owner, and only to a port that may drive; an enable alone ends DISABLED, and only with no
holder of the address. -/
theorem stepKeepsOwnersAndAddresses : Obligations.StepKeepsOwnersAndAddresses :=
  ⟨fun _ _ => State.step_owners, fun _ _ => State.step_addresses⟩

end Sys2Proof.Machine
end

section
/-! SUPPORT. The store's cells and the ranges of the live configuration, kept by every step (R167, R171, R172). -/

namespace Sys2Proof.Machine

namespace State

/-! ### The store -/

theorem storeSound_of_eq {s t : State} (h : t.store = s.store) (hs : s.StoreSound) : t.StoreSound := by
  unfold StoreSound
  rw [h]
  exact hs

/-- A store with no save in progress asks for its cells alone. -/
theorem storeSound_of_no_save {s : State} (cells : Memory.wf s.store.cells = true) (save : s.store.save = none) :
    s.StoreSound := ⟨cells, fun v h => by rw [save] at h; cases h⟩

theorem completeSave_sound {s : State} (v : Save) (good : Bool) (d : Byte) (cells : Memory.wf s.store.cells = true) :
    (s.completeSave v good d).StoreSound :=
  storeSound_of_eq (completeSave_frame s s.store v good d).store (storeSound_of_no_save cells rfl)

theorem clearSave_sound {s : State} (p : Port) (hs : s.StoreSound) : (s.clearSave p).StoreSound := by
  refine ⟨hs.1, fun v hv => ?_⟩
  obtain ⟨w, hw, rfl⟩ := Option.map_eq_some_iff.mp hv
  obtain ⟨length, erased⟩ := hs.2 w hw
  unfold Save.portClear
  split <;> exact ⟨length, erased⟩

theorem startSave_sound {s : State} (p : Port) (hs : s.StoreSound) : (s.startSave p).StoreSound := by
  refine ⟨hs.1, fun v hv => ?_⟩
  cases hv
  exact ⟨s.saveImage_length, fun h => absurd rfl h⟩

theorem saveErased_sound {s : State} {v : Save} (hs : s.StoreSound) (save : s.store.save = some v) :
    (s.saveErased v).StoreSound := by
  have wf0 := Memory.wf_write (a := 0) (v := Config.erasedCell) hs.1
  have wf1 := Memory.wf_write (a := 1) (v := Config.erasedCell) wf0
  refine ⟨wf1, fun w hw => ?_⟩
  cases hw
  refine ⟨(hs.2 v save).1, fun _ => ⟨?_, ?_⟩⟩
  · refine (Memory.read_write (a := 1) (v := Config.erasedCell) wf0).trans ?_
    rw [if_neg (by decide), Memory.read_write hs.1, if_pos (by decide)]
  · refine (Memory.read_write (a := 1) (v := Config.erasedCell) wf0).trans ?_
    rw [if_pos (by decide)]

/-- The first two cells are as they were before the body phase (R172). -/
theorem read_saveWritten {s : State} {bytes : List Byte} {a : Nat} (h : Memory.wf s.store.cells = true) (ha : a < 2) :
    Memory.read (Memory.ofBytes 0 (s.cellBytes.take 2 ++ bytes)) a = Memory.read s.store.cells a := by
  have ha' : a < Config.storeSize := by simp [Config.storeSize]; omega
  have size : a < s.cellBytes.length := by rw [cellBytes_length]; omega
  rw [Memory.read_ofBytes, if_pos ⟨Nat.zero_le _, ha'⟩, ← cellBytes_getD h (by omega : a < 1024)]
  rw [List.getD_eq_getElem?_getD, List.getD_eq_getElem?_getD, Nat.sub_zero,
    List.getElem?_append_left (by rw [List.length_take, cellBytes_length]; omega), List.getElem?_take_of_lt ha,
    List.getElem?_eq_getElem size]
  rfl

theorem saveWritten_sound {s : State} {v : Save} (misread : List Host.Cell) (hs : s.StoreSound)
    (save : s.store.save = some v) (phase : v.phase = .body) : (s.saveWritten v misread).StoreSound := by
  unfold saveWritten
  dsimp only
  split
  · refine ⟨Memory.wf_ofBytes _ _, fun w hw => ?_⟩
    cases hw
    obtain ⟨length, erased⟩ := hs.2 v save
    obtain ⟨erased0, erased1⟩ := erased (by rw [phase]; decide)
    exact ⟨length, fun _ => ⟨(read_saveWritten hs.1 (by decide)).trans erased0,
      (read_saveWritten hs.1 (by decide)).trans erased1⟩⟩
  · exact completeSave_sound v false 1 (Memory.wf_ofBytes _ _)

theorem saveValidated_sound {s : State} (v : Save) (cell1 cell0 : Byte) (hs : s.StoreSound) :
    (s.saveValidated v cell1 cell0).StoreSound := by
  have cells : Memory.wf ((s.store.cell 1 cell1).cell 0 cell0).cells = true :=
    Memory.wf_write (a := 0) (v := cell0) (Memory.wf_write (a := 1) (v := cell1) hs.1)
  unfold saveValidated
  dsimp only
  split
  · exact completeSave_sound v true 0 cells
  · exact completeSave_sound v false 2 cells

theorem loadConfig_store (s : State) : ∃ x, s.loadConfig.store = { s.store with state := x } := by
  unfold loadConfig
  dsimp only
  split
  · exact ⟨_, rfl⟩
  · exact ⟨_, rfl⟩

theorem config_storeSound {s t : State} (h : ConfigEffect s t) (hs : s.StoreSound) : t.StoreSound := by
  cases h with
  | startUp _ =>
    refine startUp_keeps (X := StoreSound) ?_ (fun t i _ => ?_) (fun t => storeSound_of_eq t.startLink_frame.store)
      fun _ ht => ht
    · obtain ⟨x, e⟩ := s.loadConfig_store
      exact storeSound_of_eq (s := { s with store := { s.store with state := x } }) e hs
    · exact storeSound_of_eq (by rw [changeSlot_eq]; rfl)
  | setting g v _ => exact hs
  | slotConfig i f v _ _ => exact hs
  | claims v _ => exact hs
  | enable i _ _ _ => exact storeSound_of_eq (by rw [changeSlot_eq]; rfl) hs

theorem store_storeSound {s t : State} (h : StoreEffect s t) (hs : s.StoreSound) : t.StoreSound := by
  cases h with
  | detached p => exact clearSave_sound p hs
  | starts p _ => exact startSave_sound p hs
  | erased v save _ => exact saveErased_sound hs save
  | written v misread save phase => exact saveWritten_sound misread hs save phase
  | validated v cell1 cell0 _ _ => exact saveValidated_sound v cell1 cell0 hs

theorem effect_storeSound {s t : State} (h : Effect s t) (hs : s.StoreSound) : t.StoreSound := by
  rcases effect_frame h with h | h | h
  · exact storeSound_of_eq h.store hs
  · exact config_storeSound h hs
  · exact store_storeSound h hs

theorem cutCells_wf {x : Store} (cut : SaveCut) (h : Memory.wf x.cells = true) :
    Memory.wf (x.cutCells cut) = true := by
  unfold Store.cutCells
  split
  · exact h
  · split
    · have erased0 : Memory.wf (if cut.erased0 then Memory.write x.cells 0 Config.erasedCell else x.cells) = true := by
        split
        · exact Memory.wf_write h
        · exact h
      dsimp only
      split
      · exact Memory.wf_write erased0
      · exact erased0
    · exact Memory.wf_ofBytes _ _
    · split
      · exact Memory.wf_write h
      · exact h

end State

/-- Settles O53: a save erases cells 0 and 1 first, and its body phase writes neither of them. -/
theorem stepKeepsStoreSound : Obligations.StepKeepsStoreSound := fun _ _ hs h =>
  State.step_keeps (X := State.StoreSound) (fun _ _ h => h) (fun _ _ _ _ h => h) (fun _ h => h)
    (fun _ _ _ cut h => State.storeSound_of_no_save (State.cutCells_wf cut h.1) rfl)
    (fun _ _ => State.effect_storeSound) hs h

/-! ### The ranges -/

/-- What R167 asks of the settings that can lie out of their range. -/
structure LiveConfig.Limits (c : LiveConfig) : Prop where
  period : Global.period.inRange c.period = true
  timeout : Global.timeout.inRange c.timeout = true
  allowance : Global.allowance.inRange c.allowance = true
  staleLimit : Global.staleLimit.inRange c.staleLimit = true
  suspectLimit : Global.suspectLimit.inRange c.suspectLimit = true
  firstQuick : Global.firstQuick.inRange c.firstQuick = true
  rejoinQuick : Global.rejoinQuick.inRange c.rejoinQuick = true
  backoff : Global.backoff.inRange c.backoffCode = true
  lockout : Global.lockout.inRange c.lockoutRounds = true

theorem roleCodes_inRange (x y z : Role) :
    Global.roles.inRange (x.code.setWidth 8 ||| (y.code.setWidth 8 <<< 2) ||| (z.code.setWidth 8 <<< 4)) = true := by
  cases x <;> cases y <;> cases z <;> decide

theorem LiveConfig.rolesByte_inRange (c : LiveConfig) : Global.roles.inRange (c.byte .roles) = true :=
  roleCodes_inRange c.roles.a c.roles.b c.roles.c

theorem LiveConfig.pinEdgeByte_inRange (c : LiveConfig) : Global.pinEdge.inRange (c.byte .pinEdge) = true := by
  show Global.pinEdge.inRange c.pinEdge.code = true
  cases c.pinEdge <;> rfl

theorem LiveConfig.inRange_iff_limits (c : LiveConfig) :
    (∀ g : Global, g.inRange (c.byte g) = true) ↔ c.Limits := by
  refine ⟨fun h => ⟨h .period, h .timeout, h .allowance, h .staleLimit, h .suspectLimit, h .firstQuick,
    h .rejoinQuick, h .backoff, h .lockout⟩, fun h g => ?_⟩
  cases g with
  | period => exact h.period
  | timeout => exact h.timeout
  | allowance => exact h.allowance
  | staleLimit => exact h.staleLimit
  | suspectLimit => exact h.suspectLimit
  | firstQuick => exact h.firstQuick
  | rejoinQuick => exact h.rejoinQuick
  | backoff => exact h.backoff
  | lockout => exact h.lockout
  | roles => exact c.rolesByte_inRange
  | pinEdge => exact c.pinEdgeByte_inRange
  | _ => rfl

/-- A setting that takes a byte in its range stays in the limits. -/
theorem LiveConfig.put_limits {c : LiveConfig} {g : Global} {v : Byte} (range : g.inRange v = true) (h : c.Limits) :
    (c.put g v).Limits := by
  cases g with
  | period => exact { h with period := range }
  | timeout => exact { h with timeout := range }
  | allowance => exact { h with allowance := range }
  | staleLimit => exact { h with staleLimit := range }
  | suspectLimit => exact { h with suspectLimit := range }
  | firstQuick => exact { h with firstQuick := range }
  | rejoinQuick => exact { h with rejoinQuick := range }
  | backoff => exact { h with backoff := range }
  | lockout => exact { h with lockout := range }
  | _ => exact { h with }

theorem LiveConfig.default_limits : LiveConfig.default.Limits := ⟨rfl, rfl, rfl, rfl, rfl, rfl, rfl, rfl, rfl⟩

/-- What R167 asks of the fields of a slot's configuration that can lie out of their range. -/
structure SlotConfig.Limits (c : SlotConfig) : Prop where
  address : ConfigField.address.inRange c.address = true
  inputLength : ConfigField.inputLength.inRange c.inputLength = true
  outputLength : ConfigField.outputLength.inRange c.outputLength = true
  pollDivider : ConfigField.pollDivider.inRange c.pollDivider = true

theorem SlotConfig.inRange_iff_limits (c : SlotConfig) :
    (∀ f : ConfigField, f.inRange (c.byte f) = true) ↔ c.Limits := by
  refine ⟨fun h => ⟨h .address, h .inputLength, h .outputLength, h .pollDivider⟩, fun h f => ?_⟩
  cases f with
  | address => exact h.address
  | inputLength => exact h.inputLength
  | outputLength => exact h.outputLength
  | pollDivider => exact h.pollDivider
  | _ => rfl

theorem SlotConfig.put_limits {c : SlotConfig} {f : ConfigField} {v : Byte} (range : f.inRange v = true)
    (h : c.Limits) : (c.put f v).Limits := by
  cases f with
  | address => exact { h with address := range }
  | inputLength => exact { h with inputLength := range }
  | outputLength => exact { h with outputLength := range }
  | pollDivider => exact { h with pollDivider := range }
  | _ => exact { h with }

theorem SlotConfig.default_limits : SlotConfig.default.Limits := ⟨rfl, rfl, rfl, rfl⟩

/-- An accepted image holds bytes in their ranges alone (R167). -/
theorem imageAccepted_ranges {image : List Byte} (h : imageAccepted image = true) :
    (∀ x ∈ imageGlobals image, x.1.inRange x.2 = true) ∧
      ∀ i, ∀ x ∈ imageFields image i, x.1.inRange x.2 = true := by
  simp only [imageAccepted, Bool.and_eq_true, List.all_eq_true] at h
  obtain ⟨⟨-, globals⟩, fields⟩ := h
  exact ⟨globals, fun i => fields i (List.mem_finRange i)⟩

theorem imageConfig_limits {image : List Byte} (h : imageAccepted image = true) : (imageConfig image).Limits :=
  List.foldlRecOn (motive := LiveConfig.Limits) _ _ LiveConfig.default_limits fun _ hc x hx =>
    LiveConfig.put_limits ((imageAccepted_ranges h).1 x hx) hc

theorem imageSlot_limits {image : List Byte} (h : imageAccepted image = true) (i : Fin 16) :
    (imageSlot image i).Limits :=
  List.foldlRecOn (motive := SlotConfig.Limits) _ _ SlotConfig.default_limits fun _ hc x hx =>
    SlotConfig.put_limits ((imageAccepted_ranges h).2 i x hx) hc

namespace State

theorem configInRange_iff (s : State) : s.ConfigInRange ↔ s.config.Limits ∧ ∀ i, (s.slot i).config.Limits :=
  and_congr s.config.inRange_iff_limits (forall_congr' fun i => (s.slot i).config.inRange_iff_limits)

theorem configInRange_of_eq {s t : State} (config : t.config = s.config)
    (slots : ∀ i, (t.slot i).config = (s.slot i).config) (hs : s.ConfigInRange) : t.ConfigInRange := by
  rw [configInRange_iff] at hs ⊢
  simp only [config, slots]
  exact hs

theorem loadConfig_inRange {s : State} {r : PerPort Role} : ({ s.loadConfig with roles := r } : State).ConfigInRange := by
  rw [configInRange_iff]
  refine ⟨?_, fun i => ?_⟩
  · show s.loadConfig.config.Limits
    unfold loadConfig
    dsimp only
    split
    · next h => exact imageConfig_limits h
    · exact LiveConfig.default_limits
  · show (s.loadConfig.slot i).config.Limits
    obtain ⟨c, e, k⟩ := s.loadConfig_slot i
    rw [e]
    rcases k with rfl | ⟨h, rfl⟩
    · exact SlotConfig.default_limits
    · exact imageSlot_limits h i

theorem enable_inRange {s : State} (i : Fin 16) (hs : s.ConfigInRange) : (s.changeSlot i (·.enable)).ConfigInRange := by
  refine configInRange_of_eq (by rw [changeSlot_eq]; rfl) (fun j => ?_) hs
  rw [changeSlot_slot_eq]
  split
  · next e => subst e; rfl
  · rfl

theorem config_inRange {s t : State} (h : ConfigEffect s t) (hs : s.ConfigInRange) : t.ConfigInRange := by
  cases h with
  | startUp _ =>
    exact startUp_keeps (X := ConfigInRange) loadConfig_inRange (fun _ i _ => enable_inRange i)
      (fun t => configInRange_of_eq t.startLink_frame.config fun i => (t.startLink_frame.slots i).config) fun _ ht => ht
  | setting g v range =>
    rw [configInRange_iff] at hs ⊢
    exact ⟨LiveConfig.put_limits range hs.1, hs.2⟩
  | slotConfig i f v _ range =>
    rw [configInRange_iff] at hs ⊢
    refine ⟨hs.1, fun j => ?_⟩
    rw [modSlot_slot]
    split
    · exact SlotConfig.put_limits range (hs.2 _)
    · exact hs.2 j
  | claims v change => exact configInRange_of_eq (s := s) rfl (fun i => (change i).config) hs
  | enable i _ _ _ => exact enable_inRange i hs

theorem effect_inRange {s t : State} (h : Effect s t) (hs : s.ConfigInRange) : t.ConfigInRange := by
  rcases effect_frame h with h | h | h
  · exact configInRange_of_eq h.config (fun i => (h.slots i).config) hs
  · exact config_inRange h hs
  · obtain ⟨x, e⟩ := store_frame h
    exact configInRange_of_eq e.config (fun i => (e.slots i).config) hs

theorem partReset_inRange (s : State) (cause : ResetCause) (addr : Level) (cut : SaveCut) :
    (s.partReset cause addr cut).ConfigInRange := by
  rw [configInRange_iff]
  exact ⟨LiveConfig.default_limits, fun i => by rw [partReset_slot]; exact SlotConfig.default_limits⟩

end State

/-- Settles O54: a write takes a value in range alone, and the load an image whose every byte is in range. -/
theorem stepKeepsConfigInRange : Obligations.StepKeepsConfigInRange := fun _ _ hs h =>
  State.step_keeps (X := State.ConfigInRange) (fun _ _ h => h) (fun _ _ _ _ h => h) (fun _ h => h)
    (fun s cause addr cut _ => s.partReset_inRange cause addr cut) (fun _ _ => State.effect_inRange) hs h

end Sys2Proof.Machine
end

section
/-! SUPPORT. The requests where the windows' states say (R103, R105): what each operation of the window unit, the scheduler and the
link engine does to the agreement of windows, queue, record out and engine. -/

namespace Sys2Proof.Machine.State

/-- A request of window `w` of port `p` is queued. -/
def InQueue (s : State) (p : Port) (w : Fin 4) : Prop := ∃ r ∈ s.queue, r.port = p ∧ r.window = w

/-- The record out is one of window `w` of port `p`. -/
def IsOut (s : State) (p : Port) (w : Fin 4) : Prop := ∃ r, s.out = some r ∧ r.port = p ∧ r.window = w

/-- The window has its request's record out at the engine, by its state. -/
def AtOut (s : State) (p : Port) (w : Fin 4) : Prop :=
  (s.window p w).state = .inFlight ∨ (s.window p w).state = .cancelling

/-- No two queued records serve one window. -/
def QueuedOnce (s : State) : Prop := (s.queue.map fun r => (r.port, r.window)).Nodup

theorem requestsMatchWindows_iff (s : State) :
    s.RequestsMatchWindows ↔
      s.QueuedOnce ∧ ∀ p w, (s.InQueue p w → (s.window p w).state = .queued) ∧ (s.IsOut p w → s.AtOut p w) := by
  constructor
  · rintro ⟨queued, once, out⟩
    refine ⟨once, fun p w => ⟨?_, ?_⟩⟩
    · rintro ⟨r, hr, rfl, rfl⟩; exact queued r hr
    · rintro ⟨r, hr, rfl, rfl⟩; exact out r hr
  · rintro ⟨once, h⟩
    exact ⟨fun r hr => (h _ _).1 ⟨r, hr, rfl, rfl⟩, once, fun r hr => (h _ _).2 ⟨r, hr, rfl, rfl⟩⟩

theorem windowsMatchRequests_iff (s : State) :
    s.WindowsMatchRequests ↔
      ∀ p w, ((s.window p w).state = .queued → s.InQueue p w) ∧ (s.AtOut p w → s.IsOut p w) := Iff.rfl

/-- What the window's state says of its request, the request in the queue and the record out are as before. -/
structure SamePlace (s t : State) (p : Port) (w : Fin 4) : Prop where
  queued : (t.window p w).state = .queued ↔ (s.window p w).state = .queued
  atOut : t.AtOut p w ↔ s.AtOut p w
  inQueue : t.InQueue p w ↔ s.InQueue p w
  isOut : t.IsOut p w ↔ s.IsOut p w

theorem samePlace_of_state {s t : State} {p : Port} {w : Fin 4} (state : (t.window p w).state = (s.window p w).state)
    (inQueue : t.InQueue p w ↔ s.InQueue p w) (isOut : t.IsOut p w ↔ s.IsOut p w) : SamePlace s t p w := by
  refine ⟨?_, ?_, inQueue, isOut⟩
  · rw [state]
  · unfold AtOut; rw [state]

/-- The window's request is where the window's state says. -/
structure Placed (s : State) (p : Port) (w : Fin 4) : Prop where
  inQueue : s.InQueue p w ↔ (s.window p w).state = .queued
  isOut : s.IsOut p w ↔ s.AtOut p w

/-- The operation keeps the requests where the windows' states say. -/
structure Tracks (s t : State) : Prop where
  requests : s.RequestsMatchWindows → t.RequestsMatchWindows
  windows : s.RequestsMatchWindows → s.WindowsMatchRequests → t.WindowsMatchRequests

theorem Tracks.refl (s : State) : Tracks s s := ⟨id, fun _ => id⟩

theorem Tracks.trans {s t u : State} (h : Tracks s t) (k : Tracks t u) : Tracks s u :=
  ⟨k.requests ∘ h.requests, fun hs hw => k.windows (h.requests hs) (h.windows hs hw)⟩

/-- The windows that an operation does not change keep their place, and the others have their requests where their states then
say. -/
theorem tracks_of_windows {s t : State} (changed : Port → Fin 4 → Prop) (once : s.QueuedOnce → t.QueuedOnce)
    (others : s.RequestsMatchWindows → ∀ p w, ¬ changed p w → SamePlace s t p w)
    (placed : s.RequestsMatchWindows → ∀ p w, changed p w → t.Placed p w) : Tracks s t := by
  refine ⟨fun hs => ?_, fun hs hw => ?_⟩
  · obtain ⟨hOnce, h⟩ := s.requestsMatchWindows_iff.mp hs
    refine t.requestsMatchWindows_iff.mpr ⟨once hOnce, fun p w => ?_⟩
    by_cases hc : changed p w
    · exact ⟨(placed hs p w hc).inQueue.mp, (placed hs p w hc).isOut.mp⟩
    · obtain ⟨queued, atOut, inQueue, isOut⟩ := others hs p w hc
      exact ⟨queued.mpr ∘ (h p w).1 ∘ inQueue.mp, atOut.mpr ∘ (h p w).2 ∘ isOut.mp⟩
  · refine t.windowsMatchRequests_iff.mpr fun p w => ?_
    by_cases hc : changed p w
    · exact ⟨(placed hs p w hc).inQueue.mpr, (placed hs p w hc).isOut.mpr⟩
    · obtain ⟨queued, atOut, inQueue, isOut⟩ := others hs p w hc
      exact ⟨inQueue.mpr ∘ (hw p w).1 ∘ queued.mp, isOut.mpr ∘ (hw p w).2 ∘ atOut.mp⟩

/-- A window that is free has no request. -/
theorem no_request_of_free {s : State} {p : Port} {w : Fin 4} (hs : s.RequestsMatchWindows)
    (free : (s.window p w).state.busy = false) : ¬ s.InQueue p w ∧ ¬ s.IsOut p w := by
  obtain ⟨-, h⟩ := s.requestsMatchWindows_iff.mp hs
  refine ⟨fun k => ?_, fun k => ?_⟩
  · rw [(h p w).1 k] at free; cases free
  · rcases (h p w).2 k with e | e <;> rw [e] at free <;> cases free

theorem placed_of_free {s : State} {p : Port} {w : Fin 4} (free : (s.window p w).state.busy = false)
    (queue : ¬ s.InQueue p w) (out : ¬ s.IsOut p w) : s.Placed p w := by
  refine ⟨iff_of_false queue fun e => ?_, iff_of_false out fun e => ?_⟩
  · rw [e] at free; cases free
  · rcases e with e | e <;> rw [e] at free <;> cases free

/-- A window whose record is out is not QUEUED. -/
theorem not_queued_of_atOut {s : State} {p : Port} {w : Fin 4} (h : s.AtOut p w) : (s.window p w).state ≠ .queued := by
  rcases h with e | e <;> rw [e] <;> decide

theorem not_inQueue_of_atOut {s : State} {p : Port} {w : Fin 4} (hs : s.RequestsMatchWindows) (h : s.AtOut p w) :
    ¬ s.InQueue p w := fun k => not_queued_of_atOut h (((s.requestsMatchWindows_iff.mp hs).2 p w).1 k)

theorem not_isOut_of_queued {s : State} {p : Port} {w : Fin 4} (hs : s.RequestsMatchWindows)
    (h : (s.window p w).state = .queued) : ¬ s.IsOut p w := fun k =>
  not_queued_of_atOut (((s.requestsMatchWindows_iff.mp hs).2 p w).2 k) h

/-! ### Operations that leave the requests alone -/

/-- The windows' states, the queue, the record out, the engine, the link's state and the cycle's are as before. -/
structure RequestsKept (s t : State) : Prop where
  state : ∀ p w, (t.window p w).state = (s.window p w).state
  queue : t.queue = s.queue
  out : t.out = s.out
  handed : t.handed = s.handed
  engine : t.engine = s.engine
  link : t.sched.link = s.sched.link
  inCycle : t.sched.inCycle = s.sched.inCycle

theorem RequestsKept.refl (s : State) : RequestsKept s s := ⟨fun _ _ => rfl, rfl, rfl, rfl, rfl, rfl, rfl⟩

theorem RequestsKept.trans {s t u : State} (h : RequestsKept s t) (k : RequestsKept t u) : RequestsKept s u :=
  ⟨fun p w => (k.state p w).trans (h.state p w), k.queue.trans h.queue, k.out.trans h.out, k.handed.trans h.handed,
    k.engine.trans h.engine, k.link.trans h.link, k.inCycle.trans h.inCycle⟩

/-- The windows' states, the queue and the record out are as before. -/
theorem tracks_of_eq {s t : State} (state : ∀ p w, (t.window p w).state = (s.window p w).state) (queue : t.queue = s.queue)
    (out : t.out = s.out) : Tracks s t := by
  refine tracks_of_windows (fun _ _ => False) ?_ (fun _ p w _ => samePlace_of_state (state p w) ?_ ?_)
    fun _ _ _ => False.elim
  · unfold QueuedOnce; rw [queue]; exact id
  · unfold InQueue; rw [queue]
  · unfold IsOut; rw [out]

theorem RequestsKept.tracks {s t : State} (h : RequestsKept s t) : Tracks s t := tracks_of_eq h.state h.queue h.out

theorem modPort_kept (s : State) (p : Port) {f : PortContext → PortContext} (h : ∀ c, (f c).windows = c.windows) :
    RequestsKept s (s.modPort p f) := by
  refine ⟨fun q w => ?_, rfl, rfl, rfl, rfl, rfl, rfl⟩
  unfold window
  rw [modPort_port]
  split
  · next e => subst e; simp only [h]
  · rfl

theorem modPorts_kept (s : State) {f : PortContext → PortContext} (h : ∀ c, (f c).windows = c.windows) :
    RequestsKept s (s.modPorts f) := by
  refine ⟨fun q w => ?_, rfl, rfl, rfl, rfl, rfl, rfl⟩
  unfold window
  simp only [modPorts_port, h]

theorem raise_kept (s : State) (e : Event) (p : Port) : RequestsKept s (s.raise e p) := s.modPort_kept p fun _ => rfl

theorem raiseAll_kept (s : State) (e : Event) : RequestsKept s (s.raiseAll e) := s.modPorts_kept fun _ => rfl

theorem modWindow_kept (s : State) (p : Port) (w : Fin 4) {f : Window → Window} (h : ∀ x, (f x).state = x.state) :
    RequestsKept s (s.modWindow p w f) := by
  refine ⟨fun q k => ?_, rfl, rfl, rfl, rfl, rfl, rfl⟩
  by_cases e : q = p ∧ k = w
  · obtain ⟨rfl, rfl⟩ := e
    rw [modWindow_window_self, h]
  · rw [modWindow_window_ne _ _ fun hq hk => e ⟨hq, hk⟩]

theorem slots_kept (s : State) (v : Vector Slot 16) : RequestsKept s { s with slots := v } :=
  ⟨fun _ _ => rfl, rfl, rfl, rfl, rfl, rfl, rfl⟩

theorem changeSlot_kept (s : State) (i : Fin 16) (f : Slot → Slot) : RequestsKept s (s.changeSlot i f) := by
  rw [changeSlot_eq]
  exact (s.slots_kept _).trans (modPorts_kept _ fun _ => rfl)

theorem changeSlots_kept (s : State) (f : Slot → Slot) : RequestsKept s (s.changeSlots f) := by
  rw [changeSlots_eq]
  exact (s.slots_kept _).trans (modPorts_kept _ fun _ => rfl)

theorem modSched_kept (s : State) {f : Scheduler → Scheduler} (link : ∀ c, (f c).link = c.link)
    (inCycle : ∀ c, (f c).inCycle = c.inCycle) : RequestsKept s (s.modSched f) :=
  ⟨fun _ _ => rfl, rfl, rfl, rfl, rfl, link _, inCycle _⟩

theorem takeCapture_kept (s : State) (x : Source) : RequestsKept s (s.takeCapture x) := by
  obtain ⟨-, sched, -, queue, out, engine, handed, -, -, -, -, -, -, -, -, -, windows, -⟩ := s.takeCapture_frame x
  exact ⟨fun p w => congrArg Window.state (windows p w), queue, out, handed, engine, congrArg Scheduler.link sched,
    congrArg Scheduler.inCycle sched⟩

theorem complete_kept (s : State) (p : Port) (code : Byte) (r : Result) (d : Byte) :
    RequestsKept s (s.complete p code r d) := by
  unfold complete
  split
  · refine .trans ?_ (raise_kept _ _ _)
    exact s.modPort_kept p fun _ => rfl
  · exact .refl s

theorem tellWaiter_kept (s : State) (p : Port) : RequestsKept s (s.tellWaiter p) := by
  unfold tellWaiter
  split
  · refine .trans ?_ (complete_kept _ _ _ _ _)
    exact s.modSched_kept (fun _ => rfl) fun _ => rfl
  · exact .refl s

theorem applyCyclic_kept (s : State) (i : Fin 16) (r : Reply) : RequestsKept s (s.applyCyclic i r) := by
  unfold applyCyclic
  split
  · dsimp only
    split
    · exact .trans (s.slots_kept _) (takeCapture_kept _ _)
    · exact s.slots_kept _
  · exact .refl s

theorem markDiscard_kept (s : State) (i : Fin 16) : RequestsKept s (s.markDiscard i) := by
  rw [markDiscard_eq]
  exact s.modSched_kept (fun _ => rfl) fun _ => rfl

theorem reclaim_kept (s : State) : RequestsKept s s.reclaim := ⟨fun _ _ => rfl, rfl, rfl, rfl, rfl, rfl, rfl⟩

/-! ### Operations on windows and requests -/

/-- As `Tracks`, with the record out, the engine, the link's state and the cycle's as before. -/
structure Steady (s t : State) : Prop extends Tracks s t where
  out : t.out = s.out
  handed : t.handed = s.handed
  engine : t.engine = s.engine
  link : t.sched.link = s.sched.link
  inCycle : t.sched.inCycle = s.sched.inCycle

theorem RequestsKept.steady {s t : State} (h : RequestsKept s t) : Steady s t :=
  ⟨h.tracks, h.out, h.handed, h.engine, h.link, h.inCycle⟩

theorem Steady.trans {s t u : State} (h : Steady s t) (k : Steady t u) : Steady s u :=
  ⟨h.toTracks.trans k.toTracks, k.out.trans h.out, k.handed.trans h.handed, k.engine.trans h.engine,
    k.link.trans h.link, k.inCycle.trans h.inCycle⟩

/-- The one window that an operation on a window changes. -/
def ThisWindow (p : Port) (w : Fin 4) (q : Port) (k : Fin 4) : Prop := q = p ∧ k = w

theorem failWindow_free_steady {s : State} {p : Port} {w : Fin 4} (c : Cause) (d : Byte)
    (free : (s.window p w).state.busy = false) : Steady s (s.failWindow p w c d) := by
  refine ⟨?_, rfl, rfl, rfl, rfl, rfl⟩
  refine tracks_of_windows (ThisWindow p w) id (fun _ q k h => samePlace_of_state ?_ Iff.rfl Iff.rfl) ?_
  · rw [failWindow_window_ne s c d fun hq hk => h ⟨hq, hk⟩]
  · rintro hs q k ⟨rfl, rfl⟩
    obtain ⟨queue, out⟩ := no_request_of_free hs free
    exact placed_of_free (by rw [failWindow_window_self]; rfl) queue out

theorem inQueue_append {s t : State} {r : Request} (h : t.queue = s.queue ++ [r]) (p : Port) (w : Fin 4) :
    t.InQueue p w ↔ s.InQueue p w ∨ (r.port = p ∧ r.window = w) := by
  unfold InQueue
  simp only [h, List.mem_append, List.mem_singleton, or_and_right, exists_or, exists_eq_left]

theorem queuedOnce_append {s t : State} {r : Request} (h : t.queue = s.queue ++ [r]) (new : ¬ s.InQueue r.port r.window)
    (hs : s.QueuedOnce) : t.QueuedOnce := by
  unfold QueuedOnce
  rw [h, List.map_append, List.nodup_append]
  refine ⟨hs, List.nodup_singleton _, fun a ha b hb e => ?_⟩
  obtain ⟨x, hx, rfl⟩ := List.mem_map.mp ha
  obtain rfl := List.mem_singleton.mp hb
  obtain ⟨port, window⟩ := Prod.mk.inj e
  exact new ⟨x, hx, port, window⟩

theorem queue_window (s : State) (queue : List Request) (p : Port) (w : Fin 4) :
    ({ s with queue := queue } : State).window p w = s.window p w := rfl

theorem enqueue_window (s : State) (p : Port) (w : Fin 4) (k : RequestKind) :
    ((s.enqueue p w k).window p w).state = .queued := by
  rw [enqueue_eq, queue_window, modWindow_window_self]

theorem enqueue_steady {s : State} {p : Port} {w : Fin 4} (k : RequestKind)
    (free : (s.window p w).state.busy = false) : Steady s (s.enqueue p w k) := by
  refine ⟨?_, rfl, rfl, rfl, rfl, rfl⟩
  have queue : ∃ r : Request, r.port = p ∧ r.window = w ∧ (s.enqueue p w k).queue = s.queue ++ [r] := ⟨_, rfl, rfl, rfl⟩
  obtain ⟨r, rfl, rfl, queue⟩ := queue
  have track : s.RequestsMatchWindows → Tracks s (s.enqueue r.port r.window k) := fun hs => by
    obtain ⟨new, out⟩ := no_request_of_free hs free
    refine tracks_of_windows (ThisWindow r.port r.window) (queuedOnce_append queue new)
      (fun _ q k' h => samePlace_of_state ?_ ?_ Iff.rfl) ?_
    · rw [enqueue_eq, queue_window, modWindow_window_ne _ _ fun hq hk => h ⟨hq, hk⟩]
    · rw [inQueue_append queue]
      exact or_iff_left fun e => h ⟨e.1.symm, e.2.symm⟩
    · rintro - q k' ⟨rfl, rfl⟩
      have state := s.enqueue_window r.port r.window k
      refine ⟨iff_of_true ((inQueue_append queue _ _).mpr (.inr ⟨rfl, rfl⟩)) state, iff_of_false out fun e => ?_⟩
      exact not_queued_of_atOut e state
  exact ⟨fun hs => (track hs).requests hs, fun hs => (track hs).windows hs⟩

theorem queuedOnce_sublist {s t : State} (h : t.queue.Sublist s.queue) (hs : s.QueuedOnce) : t.QueuedOnce :=
  hs.sublist (h.map _)

theorem inQueue_filter {s t : State} {f : Request → Bool} (h : t.queue = s.queue.filter f) (p : Port) (w : Fin 4) :
    t.InQueue p w ↔ ∃ r ∈ s.queue, f r = true ∧ r.port = p ∧ r.window = w := by
  unfold InQueue
  simp only [h, List.mem_filter, and_assoc]

/-- Two queued records of one window are one. -/
theorem QueuedOnce.unique {s : State} (h : s.QueuedOnce) {r x : Request} (hr : r ∈ s.queue) (hx : x ∈ s.queue)
    (port : r.port = x.port) (window : r.window = x.window) : r = x :=
  List.inj_on_of_nodup_map h hr hx (Prod.ext port window)

theorem removeRequests_queue (s : State) (gone : Request → Bool) (c : Cause) :
    (s.removeRequests gone c).queue = s.queue.filter fun r => !gone r := by
  rw [removeRequests_eq]; rfl

theorem removeRequests_steady (s : State) (gone : Request → Bool) (c : Cause) : Steady s (s.removeRequests gone c) := by
  obtain ⟨ports, e⟩ := s.removeRequests_frame gone c
  have queue := s.removeRequests_queue gone c
  have out : (s.removeRequests gone c).out = s.out := by rw [e]
  refine ⟨?_, out, by rw [e], by rw [e], by rw [e], by rw [e]⟩
  have isOut : ∀ p w, (s.removeRequests gone c).IsOut p w ↔ s.IsOut p w := fun p w => by unfold IsOut; rw [out]
  refine tracks_of_windows (fun p w => ∃ r ∈ s.queue.filter gone, r.port = p ∧ r.window = w) ?_
    (fun _ p w h => samePlace_of_state ?_ ?_ (isOut p w)) fun hs p w h => ?_
  · exact queuedOnce_sublist (by rw [queue]; exact List.filter_sublist)
  · exact congrArg Window.state (foldl_failWindow_window_ne c _ fun r hr hp hw => h ⟨r, hr, hp, hw⟩)
  · rw [inQueue_filter queue]
    refine exists_congr fun r => and_congr_right fun hr => and_iff_right_of_imp fun ⟨hp, hw⟩ => ?_
    rw [Bool.not_eq_true']
    exact Bool.eq_false_iff.mpr fun hg => h ⟨r, List.mem_filter.mpr ⟨hr, hg⟩, hp, hw⟩
  · have state : (s.removeRequests gone c).window p w = { s.window p w with state := .failed, cause := c, detail := 0 } :=
      foldl_failWindow_window_mem c _ h
    obtain ⟨r, hr, rfl, rfl⟩ := h
    obtain ⟨mem, picked⟩ := List.mem_filter.mp hr
    refine placed_of_free (by rw [state]; rfl) (fun k => ?_) fun k => ?_
    · obtain ⟨x, hx, kept, port, window⟩ := (inQueue_filter queue _ _).mp k
      rw [QueuedOnce.unique hs.2.1 hx mem port window, picked] at kept
      cases kept
    · exact not_isOut_of_queued hs (hs.1 r mem) ((isOut _ _).mp k)

theorem cancelWindow_steady (s : State) (p : Port) (w : Fin 4) : Steady s (s.cancelWindow p w) := by
  unfold cancelWindow
  split
  · next queued =>
    refine ⟨?_, rfl, rfl, rfl, rfl, rfl⟩
    have queue : ∀ q k, (failWindow { s with queue := s.queue.filter fun r => !(r.port = p && r.window = w) }
        p w .cancelled 0).InQueue q k ↔ _ := inQueue_filter (s := s) rfl
    refine tracks_of_windows (ThisWindow p w) (queuedOnce_sublist List.filter_sublist)
      (fun _ q k h => samePlace_of_state ?_ ?_ Iff.rfl) ?_
    · rw [failWindow_window_ne _ _ _ fun hq hk => h ⟨hq, hk⟩]
      rfl
    · rw [queue]
      refine exists_congr fun r => and_congr_right fun _ => and_iff_right_of_imp fun ⟨hp, hw⟩ => ?_
      rw [Bool.not_eq_true', Bool.eq_false_iff]
      intro e
      obtain ⟨port, window⟩ : r.port = p ∧ r.window = w := by simpa using e
      exact h ⟨hp.symm.trans port, hw.symm.trans window⟩
    · rintro hs q k ⟨rfl, rfl⟩
      refine placed_of_free (by rw [failWindow_window_self]; rfl) (fun h => ?_) fun h => not_isOut_of_queued hs queued h
      obtain ⟨r, -, kept, port, window⟩ := (queue _ _).mp h
      simp [port, window] at kept
  · next inFlight =>
    refine ⟨?_, rfl, rfl, rfl, rfl, rfl⟩
    refine tracks_of_windows (fun _ _ => False) id (fun _ q k _ => ?_) fun _ _ _ => False.elim
    by_cases e : q = p ∧ k = w
    · obtain ⟨rfl, rfl⟩ := e
      refine ⟨?_, ?_, Iff.rfl, Iff.rfl⟩
      · simp [inFlight, Window.enter]
      · simp [AtOut, inFlight, Window.enter]
    · exact samePlace_of_state (by rw [modWindow_window_ne _ _ fun hq hk => e ⟨hq, hk⟩]) Iff.rfl Iff.rfl
  all_goals exact (RequestsKept.refl s).steady

theorem clearWindows_window_self (s : State) (p : Port) (w : Fin 4) :
    (s.clearWindows p).window p w = (s.window p w).portClear := by
  unfold clearWindows
  rw [queue_window]
  simp [window]

theorem clearWindows_window_ne (s : State) {p q : Port} (w : Fin 4) (h : q ≠ p) :
    (s.clearWindows p).window q w = s.window q w := by
  unfold clearWindows
  rw [queue_window]
  simp [window, modPort_port_ne _ _ h]

theorem Window.portClear_state (x : Window) :
    (x.portClear).state = if x.state = .inFlight ∨ x.state = .cancelling then .cancelling else .idle := by
  unfold Window.portClear
  simp only [Bool.or_eq_true, decide_eq_true_eq]
  split <;> rfl

theorem clearWindows_steady (s : State) (p : Port) : Steady s (s.clearWindows p) := by
  refine ⟨?_, rfl, rfl, rfl, rfl, rfl⟩
  have queue : ∀ q k, (s.clearWindows p).InQueue q k ↔ _ := inQueue_filter (s := s) rfl
  have gone : ∀ k, ¬ (s.clearWindows p).InQueue p k := fun k h => by
    obtain ⟨r, -, kept, port, -⟩ := (queue _ _).mp h
    simp [port] at kept
  have cleared : ∀ k, ((s.clearWindows p).window p k).state = _ := fun k =>
    (congrArg Window.state (s.clearWindows_window_self p k)).trans (Window.portClear_state _)
  refine tracks_of_windows (fun q k => q = p ∧ ¬ s.AtOut q k) (queuedOnce_sublist List.filter_sublist)
    (fun hs q k h => ?_) ?_
  · by_cases e : q = p
    · subst e
      have out : s.AtOut q k := by_contra fun n => h ⟨rfl, n⟩
      have cancelling := (cleared k).trans (if_pos out)
      refine ⟨iff_of_false (by rw [cancelling]; decide) (not_queued_of_atOut out), iff_of_true (.inr cancelling) out,
        iff_of_false (gone k) (not_inQueue_of_atOut hs out), Iff.rfl⟩
    · refine samePlace_of_state (by rw [clearWindows_window_ne s k e]) ?_ Iff.rfl
      rw [queue]
      refine exists_congr fun r => and_congr_right fun _ => and_iff_right_of_imp fun ⟨hp, _⟩ => ?_
      simpa [hp] using e
  · rintro hs q k ⟨rfl, h⟩
    refine placed_of_free (by rw [(cleared k).trans (if_neg h)]; rfl) (gone k) fun o => ?_
    exact h (((s.requestsMatchWindows_iff.mp hs).2 q k).2 o)

end Sys2Proof.Machine.State
end

section
/-! SUPPORT. The record out, the turns and the link's start and stop: the engine's request and the windows (R25, R28, R31, R105,
R106). -/

namespace Sys2Proof.Machine.State

/-! ### The record out ends -/

/-- The record out is dropped; the engine, the link's state and the cycle's are as before. -/
structure OutGone (s t : State) : Prop extends Tracks s t where
  out : t.out = none
  handed : t.handed = s.handed
  engine : t.engine = s.engine
  link : t.sched.link = s.sched.link
  inCycle : t.sched.inCycle = s.sched.inCycle

theorem outGone_none {s : State} (h : s.out = none) : OutGone s s := ⟨.refl s, h, rfl, rfl, rfl, rfl⟩

/-- The window that the record out serves. -/
def ServedBy (r : Request) (p : Port) (w : Fin 4) : Prop := r.port = p ∧ r.window = w

theorem isOut_iff {s : State} {r : Request} (h : s.out = some r) (p : Port) (w : Fin 4) :
    s.IsOut p w ↔ ServedBy r p w := by
  unfold IsOut ServedBy
  simp [h]

theorem not_isOut_of_none {s : State} (h : s.out = none) (p : Port) (w : Fin 4) : ¬ s.IsOut p w := by
  unfold IsOut
  simp [h]

theorem atOut_of_out {s : State} {r : Request} (hs : s.RequestsMatchWindows) (h : s.out = some r) :
    s.AtOut r.port r.window := hs.2.2 r h

/-- The record out is dropped and its window free: no window is left without its request. -/
theorem tracks_of_out_ended {s t : State} {r : Request} (h : s.out = some r) (out : t.out = none)
    (queue : t.queue = s.queue) (free : (t.window r.port r.window).state.busy = false)
    (others : ∀ p w, ¬ ServedBy r p w → (t.window p w).state = (s.window p w).state) : Tracks s t := by
  have inQueue : ∀ p w, t.InQueue p w ↔ s.InQueue p w := fun p w => by unfold InQueue; rw [queue]
  refine tracks_of_windows (ServedBy r) (by unfold QueuedOnce; rw [queue]; exact id) (fun _ p w n => ?_) ?_
  · refine samePlace_of_state (others p w n) (inQueue p w) (iff_of_false (not_isOut_of_none out p w) ?_)
    rwa [isOut_iff h]
  · rintro hs p w ⟨rfl, rfl⟩
    refine placed_of_free free ?_ (not_isOut_of_none out _ _)
    rw [inQueue]
    exact not_inQueue_of_atOut hs (atOut_of_out hs h)

/-- The record out is dropped and joins the queue again for its window. -/
theorem tracks_of_out_rejoins {s t : State} {r x : Request} (h : s.out = some r) (out : t.out = none)
    (queue : t.queue = s.queue ++ [x]) (port : x.port = r.port) (window : x.window = r.window)
    (queued : (t.window r.port r.window).state = .queued)
    (others : ∀ p w, ¬ ServedBy r p w → (t.window p w).state = (s.window p w).state) : Tracks s t := by
  have track : s.RequestsMatchWindows → Tracks s t := fun hs => by
    have new : ¬ s.InQueue x.port x.window := by
      rw [port, window]
      exact not_inQueue_of_atOut hs (atOut_of_out hs h)
    refine tracks_of_windows (ServedBy r) (queuedOnce_append queue new) (fun _ p w n => ?_) ?_
    · refine samePlace_of_state (others p w n) ?_ (iff_of_false (not_isOut_of_none out p w) (by rwa [isOut_iff h]))
      rw [inQueue_append queue, port, window]
      exact or_iff_left n
    · rintro - p w ⟨rfl, rfl⟩
      refine ⟨iff_of_true ((inQueue_append queue _ _).mpr (.inr ⟨port, window⟩)) queued, ?_⟩
      exact iff_of_false (not_isOut_of_none out _ _) fun k => not_queued_of_atOut k queued
  exact ⟨fun hs => (track hs).requests hs, fun hs => (track hs).windows hs⟩

/-- The record out is dropped and its window, not AT the engine by its state, is left: with the requests in place there is no such
record. -/
theorem tracks_of_out_elsewhere {s t : State} {r : Request} (h : s.out = some r) (elsewhere : ¬ s.AtOut r.port r.window) :
    Tracks s t :=
  ⟨fun hs => absurd (atOut_of_out hs h) elsewhere, fun hs => absurd (atOut_of_out hs h) elsewhere⟩

theorem out_window (s : State) (out : Option Request) (p : Port) (w : Fin 4) :
    ({ s with out := out } : State).window p w = s.window p w := rfl

/-- A change of the record out's window alone, with the record dropped. -/
theorem outGone_of_window {s t : State} {r : Request} (h : s.out = some r) (out : t.out = none) (queue : t.queue = s.queue)
    (handed : t.handed = s.handed) (engine : t.engine = s.engine) (sched : t.sched = s.sched)
    (free : (t.window r.port r.window).state.busy = false)
    (others : ∀ p w, ¬ ServedBy r p w → (t.window p w).state = (s.window p w).state) : OutGone s t :=
  ⟨tracks_of_out_ended h out queue free others, out, handed, engine, by rw [sched], by rw [sched]⟩

theorem failWindow_outGone {s : State} {r : Request} (h : s.out = some r) (c : Cause) (d : Byte) :
    OutGone s (({ s with out := none } : State).failWindow r.port r.window c d) := by
  refine outGone_of_window h rfl rfl rfl rfl rfl (by rw [failWindow_window_self]; rfl) fun p w n => ?_
  rw [failWindow_window_ne _ _ _ fun hp hw => n ⟨hp.symm, hw.symm⟩, out_window]

theorem finishWindow_window_self (s : State) (p : Port) (w : Fin 4) : ((s.finishWindow p w).window p w).state = .done := by
  rw [finishWindow, raise_window, modWindow_window_self]
  rfl

theorem finishWindow_window_ne (s : State) {p q : Port} {w k : Fin 4} (h : q = p → k ≠ w) :
    (s.finishWindow p w).window q k = s.window q k := by
  rw [finishWindow, raise_window, modWindow_window_ne _ _ h]

theorem finishWindow_outGone {s : State} {r : Request} (h : s.out = some r) :
    OutGone s (({ s with out := none } : State).finishWindow r.port r.window) := by
  refine outGone_of_window h rfl rfl rfl rfl rfl (by rw [finishWindow_window_self]; rfl) fun p w n => ?_
  rw [finishWindow_window_ne _ fun hp hw => n ⟨hp.symm, hw.symm⟩, out_window]

theorem endCancelling_outGone {s : State} {r : Request} (h : s.out = some r) :
    OutGone s (({ s with out := none } : State).endCancelling r.port r.window) := by
  unfold endCancelling
  split
  · refine outGone_of_window h rfl rfl rfl rfl rfl (by rw [modWindow_window_self]; rfl) fun p w n => ?_
    rw [modWindow_window_ne _ _ fun hp hw => n ⟨hp.symm, hw.symm⟩, out_window]
  · exact failWindow_outGone h _ _

theorem elsewhere_outGone {s : State} {r : Request} (h : s.out = some r) (elsewhere : ¬ s.AtOut r.port r.window) :
    OutGone s { s with out := none } := ⟨tracks_of_out_elsewhere h elsewhere, rfl, rfl, rfl, rfl, rfl⟩

/-- The cases of a window whose record is out, by its state. -/
theorem not_atOut_of_state {s : State} {p : Port} {w : Fin 4} {x : WindowState} (h : (s.window p w).state = x)
    (inFlight : x ≠ .inFlight) (cancelling : x ≠ .cancelling) : ¬ s.AtOut p w := by
  rintro (e | e)
  · exact inFlight (h.symm.trans e)
  · exact cancelling (h.symm.trans e)

theorem dropOut_outGone (s : State) (c : Cause) : OutGone s (s.dropOut c) := by
  unfold dropOut
  split
  · next h => exact outGone_none h
  · next r h =>
    dsimp only
    split
    · exact failWindow_outGone h _ _
    · exact endCancelling_outGone h
    all_goals
      next e => exact elsewhere_outGone h (not_atOut_of_state e (by decide) (by decide))

theorem rejoin_outGone {s : State} {r : Request} (h : s.out = some r) :
    OutGone s (({ s with out := none } : State).rejoin r) := by
  unfold rejoin
  split
  · exact failWindow_outGone h _ _
  · split
    · exact failWindow_outGone h _ _
    · split
      · exact failWindow_outGone h _ _
      · refine ⟨tracks_of_out_rejoins h rfl rfl rfl rfl ?_ fun p w n => ?_, rfl, rfl, rfl, rfl, rfl⟩
        · rw [queue_window, modWindow_window_self]
          rfl
        · rw [queue_window, modWindow_window_ne _ _ fun hp hw => n ⟨hp.symm, hw.symm⟩, out_window]

theorem readDone_outGone {s : State} {r : Request} (h : s.out = some r) (f : Window → Window) :
    OutGone s ((({ s with out := none } : State).modWindow r.port r.window f).finishWindow r.port r.window) := by
  refine outGone_of_window h rfl rfl rfl rfl rfl (by rw [finishWindow_window_self]; rfl) fun p w n => ?_
  have ne : p = r.port → w ≠ r.window := fun hp hw => n ⟨hp.symm, hw.symm⟩
  rw [finishWindow_window_ne _ ne, modWindow_window_ne _ _ ne, out_window]

theorem goodReply_outGone {s : State} {r : Request} (h : s.out = some r) (busy : Bool) (payload : List Byte) :
    OutGone s (({ s with out := none } : State).goodReply r busy payload) := by
  unfold goodReply
  split
  · exact rejoin_outGone h
  · split
    · exact failWindow_outGone h _ _
    · split
      · exact readDone_outGone h _
      · exact finishWindow_outGone h

theorem windowReport_outGone (s : State) (d : Decision) : OutGone s (s.windowReport d) := by
  unfold windowReport
  split
  · next h => exact outGone_none h
  · next r h =>
    dsimp only
    split
    · split
      · exact goodReply_outGone h _ _
      · exact failWindow_outGone h _ _
    · exact endCancelling_outGone h
    all_goals
      next e => exact elsewhere_outGone h (not_atOut_of_state e (by decide) (by decide))

/-! ### The head of the queue goes out -/

/-- The head's record goes out and its window is IN_FLIGHT (R105). -/
def headOut (s : State) (r : Request) (rest : List Request) (f : Scheduler → Scheduler) : State :=
  (({ s with queue := rest, out := some r } : State).modSched f).modWindow r.port r.window (·.enter .inFlight)

/-- A turn of the acyclic part takes the head of the queue, while the allowance leaves room. -/
theorem acyclicTurn_eq {s t : State} (h : s.acyclicTurn = some t) :
    ∃ r rest, s.queue = r :: rest ∧
      t = (s.headOut r rest fun c => { c with plan := [], acyclic := c.acyclic + 1 }).hand r.kind.kind r.slot := by
  unfold acyclicTurn at h
  split at h
  · cases h
  · next r rest queue =>
    split at h
    · cases h
      exact ⟨r, rest, queue, rfl⟩
    · cases h

theorem headOut_window_self (s : State) (r : Request) (rest : List Request) (f : Scheduler → Scheduler) :
    ((s.headOut r rest f).window r.port r.window).state = .inFlight := by
  unfold headOut
  rw [modWindow_window_self]
  rfl

theorem headOut_window_ne (s : State) (r : Request) (rest : List Request) (f : Scheduler → Scheduler) {p : Port}
    {w : Fin 4} (n : ¬ ServedBy r p w) : (s.headOut r rest f).window p w = s.window p w := by
  unfold headOut
  rw [modWindow_window_ne _ _ fun hp hw => n ⟨hp.symm, hw.symm⟩]
  rfl

/-- With no record out, a turn of the acyclic part keeps the requests where the windows' states say. -/
theorem headOut_tracks {s : State} {r : Request} {rest : List Request} (out : s.out = none) (queue : s.queue = r :: rest)
    (f : Scheduler → Scheduler) : Tracks s (s.headOut r rest f) := by
  have track : s.RequestsMatchWindows → Tracks s (s.headOut r rest f) := fun hs => by
    have once : (r :: rest).map (fun x => (x.port, x.window)) |>.Nodup := queue ▸ hs.2.1
    obtain ⟨head, tail⟩ := List.nodup_cons.mp once
    refine tracks_of_windows (ServedBy r) (fun _ => tail) (fun _ p w n => ?_) ?_
    · refine samePlace_of_state (by rw [headOut_window_ne _ _ _ _ n]) ?_
        (iff_of_false (by rwa [isOut_iff (r := r) rfl]) (not_isOut_of_none out p w))
      unfold InQueue
      rw [queue]
      refine ⟨fun ⟨x, hx, e⟩ => ⟨x, List.mem_cons_of_mem _ hx, e⟩, fun ⟨x, hx, e⟩ => ⟨x, ?_, e⟩⟩
      exact (List.mem_cons.mp hx).resolve_left fun h => n (h ▸ e)
    · rintro - p w ⟨rfl, rfl⟩
      have state := s.headOut_window_self r rest f
      refine ⟨iff_of_false ?_ (by rw [state]; decide), iff_of_true ((isOut_iff (r := r) rfl _ _).mpr ⟨rfl, rfl⟩) (.inl state)⟩
      rintro ⟨x, hx, port, window⟩
      exact head (List.mem_map.mpr ⟨x, hx, Prod.ext port window⟩)
  exact ⟨fun hs => (track hs).requests hs, fun hs => (track hs).windows hs⟩

/-- The record out, forgotten: what the requests in place say of the queue still stands. -/
theorem matches_without_out {s : State} (h : s.RequestsMatchWindows) :
    ({ s with out := none } : State).RequestsMatchWindows :=
  ⟨h.1, h.2.1, fun _ e => by cases e⟩

theorem headOut_without_out (s : State) (r : Request) (rest : List Request) (f : Scheduler → Scheduler) :
    ({ s with out := none } : State).headOut r rest f = s.headOut r rest f := rfl

theorem hand_tracks (s : State) (k : Kind) (i : Fin 16) : Tracks s (s.hand k i) := by
  obtain ⟨engine, handed, e⟩ := s.hand_frame k i
  rw [e]
  exact tracks_of_eq (fun _ _ => rfl) rfl rfl

/-- The requests in place as the next turn is taken, whatever is at the engine. -/
theorem acyclicTurn_matches {s t : State} (h : s.acyclicTurn = some t) (hs : s.RequestsMatchWindows) :
    t.RequestsMatchWindows := by
  obtain ⟨r, rest, queue, rfl⟩ := acyclicTurn_eq h
  rw [← headOut_without_out]
  exact (hand_tracks _ _ _).requests ((headOut_tracks (s := { s with out := none }) rfl queue _).requests
    (matches_without_out hs))

/-! ### The turns -/

/-- What holds while the turns are taken, at the end of a cycle and after the turns (R28, R30, R32). -/
theorem turns_keeps {X Z Y : State → Prop}
    (plan : ∀ s t : State, X s → s.planTurn s.sched.plan = some t → Y t)
    (acyclic : ∀ s t : State, X s → s.acyclicTurn = some t → Y t) (ended : ∀ s : State, X s → Z s.endCycle)
    (begins : ∀ s : State, Z s → X (s.modSched fun c => { c with deferred := false }).beginCycle)
    (rests : ∀ s : State, Z s → Y s) (stays : ∀ s : State, X s → Y s) (n : Nat) {s : State} (hs : X s) :
    Y (s.turns n) := by
  induction n generalizing s with
  | zero => exact stays s hs
  | succ n ih =>
    unfold turns
    split
    · next t h => exact plan s t hs h
    · split
      · next t h => exact acyclic s t hs h
      · dsimp only
        split
        · exact ih (begins _ (ended s hs))
        · exact rests _ (ended s hs)

theorem phase_kept (s : State) (b : Bool) : RequestsKept s { s with phase := b } :=
  ⟨fun _ _ => rfl, rfl, rfl, rfl, rfl, rfl, rfl⟩

theorem modSched_tracks (s : State) (f : Scheduler → Scheduler) : Tracks s (s.modSched f) :=
  tracks_of_eq (fun _ _ => rfl) rfl rfl

theorem endCycle_tracks (s : State) : Tracks s s.endCycle :=
  (s.changeSlots_kept _).tracks.trans ((modSched_tracks _ _).trans (phase_kept _ _).tracks)

theorem timerCapture_kept (s : State) : RequestsKept s s.timerCapture := by
  unfold timerCapture
  split
  · exact s.takeCapture_kept _
  · exact .refl s

theorem beginCycle_tracks (s : State) : Tracks s s.beginCycle := by
  unfold beginCycle
  exact .trans (.trans (modSched_tracks _ _) (timerCapture_kept _).tracks) (modSched_tracks _ _)

theorem planTurn_tracks {s t : State} {plan : List (Fin 16)} (h : s.planTurn plan = some t) : Tracks s t := by
  rcases s.planTurn_cases plan with e | ⟨k, j, rest, -, -, e⟩
  · rw [e] at h; cases h
  · rw [e] at h; cases h
    exact (s.modSched_tracks _).trans (hand_tracks _ _ _)

theorem turns_matches (n : Nat) {s : State} (hs : s.RequestsMatchWindows) : (s.turns n).RequestsMatchWindows :=
  turns_keeps (X := RequestsMatchWindows) (Z := RequestsMatchWindows) (fun _ _ hs h => (planTurn_tracks h).requests hs)
    (fun _ _ hs h => acyclicTurn_matches h hs) (fun s => s.endCycle_tracks.requests)
    (fun s hs => (beginCycle_tracks _).requests ((s.modSched_tracks _).requests hs)) (fun _ => id) (fun _ => id) n hs

theorem startCycle_matches {s : State} (hs : s.RequestsMatchWindows) : s.startCycle.RequestsMatchWindows :=
  turns_matches 2 (s.beginCycle_tracks.requests hs)

theorem startLink_matches {s : State} (hs : s.RequestsMatchWindows) : s.startLink.RequestsMatchWindows :=
  startCycle_matches ((raiseAll_kept _ _).tracks.requests ((s.modSched_tracks _).requests hs))

/-! ### Reports, withdrawals and the link's stop -/

theorem withdraw_tracks (s : State) (c : Cause) : Tracks s (s.withdraw c) := by
  have handed : Tracks s { s with handed := none } := tracks_of_eq (fun _ _ => rfl) rfl rfl
  unfold withdraw
  split
  · exact .refl s
  · dsimp only
    split
    · exact handed
    · exact handed
    · exact handed.trans (dropOut_outGone _ _).toTracks
    · exact handed.trans (dropOut_outGone _ _).toTracks

theorem healthEvidence_steady (s : State) (i : Fin 16) (k : Kind) (d : Decision) :
    Steady s (s.healthEvidence i k d) := by
  unfold healthEvidence
  dsimp only
  split
  · exact .trans (changeSlot_kept _ _ _).steady (removeRequests_steady _ _ _)
  · exact (changeSlot_kept _ _ _).steady

theorem passReport_tracks (s : State) (k : Kind) (i : Fin 16) (d : Decision) : Tracks s (s.passReport k i d) := by
  unfold passReport
  split
  · have mark := s.modSched_tracks fun c => { c with discard := false }
    unfold passDiscarded
    cases k
    · exact mark
    · exact mark
    · exact mark.trans (dropOut_outGone _ _).toTracks
    · exact mark.trans (dropOut_outGone _ _).toTracks
  · refine (s.healthEvidence_steady i k d).toTracks.trans ?_
    unfold passContents
    cases k
    · cases d
      · exact (applyCyclic_kept _ _ _).tracks
      · exact .refl _
    · exact .refl _
    · exact (windowReport_outGone _ _).toTracks
    · exact (windowReport_outGone _ _).toTracks

theorem enterStopped_tracks (s : State) : Tracks s s.enterStopped := by
  unfold enterStopped
  refine .trans (.trans (.trans ?_ (changeSlots_kept _ _).tracks) (raiseAll_kept _ _).tracks)
    (.trans (modSched_tracks _ _) (phase_kept _ _).tracks)
  exact (s.withdraw_tracks _).trans (removeRequests_steady _ _ _).toTracks

theorem tellWaiters_kept (s : State) : RequestsKept s (((s.tellWaiter .a).tellWaiter .b).tellWaiter .c) :=
  (s.tellWaiter_kept .a).trans ((tellWaiter_kept _ .b).trans (tellWaiter_kept _ .c))

theorem afterReport_matches {s : State} (hs : s.RequestsMatchWindows) : s.afterReport.RequestsMatchWindows := by
  unfold afterReport
  split
  · exact turns_matches 2 hs
  · exact (tellWaiters_kept _).tracks.requests (s.enterStopped_tracks.requests hs)
  · exact hs

theorem decideOutcome_matches {s : State} (x : Exchange) (d : Decision) (hs : s.RequestsMatchWindows) :
    (s.decideOutcome x d).RequestsMatchWindows := by
  unfold decideOutcome
  exact afterReport_matches ((passReport_tracks _ _ _ _).requests hs)

/-- DISABLE up to the withdrawal of a request pending at the engine (R54, R55). -/
theorem disable_steady (s : State) (i : Fin 16) :
    Steady s (((s.changeSlot i (·.disable)).slotLeft i).markDiscard i) := by
  have left : Steady s ((s.changeSlot i (·.disable)).slotLeft i) :=
    (s.changeSlot_kept i _).steady.trans (removeRequests_steady _ _ _)
  exact left.trans (markDiscard_kept _ i).steady

theorem withdrawDisabled_matches {s : State} (i : Fin 16) (hs : s.RequestsMatchWindows) :
    (s.withdrawDisabled i).RequestsMatchWindows := by
  unfold withdrawDisabled
  split
  · split
    · have withdrawn := (s.withdraw_tracks .slotLeft).requests hs
      dsimp only
      split
      · exact turns_matches 2 withdrawn
      · exact withdrawn
    · exact hs
  · exact hs

end Sys2Proof.Machine.State
end

section
/-! SUPPORT. The windows, the queue, the record out and the engine in agreement (R4, R28, R105), kept by every effect. -/

namespace Sys2Proof.Machine

/-- A planned slot is given a CYCLIC or an IDENT exchange, not a READ or WRITE (R28). -/
theorem HealthState.turn_planned {h : HealthState} {k : Kind} (e : h.turn = some k) : k = .cyclic ∨ k = .ident := by
  cases h <;> cases e <;> decide

theorem RequestKind.kind_ne_planned (k : RequestKind) : k.kind ≠ .cyclic ∧ k.kind ≠ .ident := by
  cases k <;> exact ⟨nofun, nofun⟩

namespace State

/-- The agreement of the windows, the queue, the record out and the engine, but for what concerns the state before READY. -/
structure Agrees (s : State) : Prop where
  requests : s.RequestsMatchWindows
  windows : s.WindowsMatchRequests
  engine : s.OutAtEngine
  quiet : s.handed ≠ none → ∃ rate since, s.engine = .quiet rate since
  cycle : s.handed ≠ none ∨ s.engine.exchange ≠ none → s.sched.inCycle = true
  stopped : s.sched.link = .stopped → s.sched.inCycle = false

theorem requestsSound_iff (s : State) : s.RequestsSound ↔ s.Agrees ∧ (s.ready = false → s.sched.link = .stopped) := by
  constructor
  · rintro ⟨requests, windows, engine, quiet, cycle, stopped, loading⟩
    exact ⟨⟨requests, windows, engine, quiet, cycle, stopped⟩, loading⟩
  · rintro ⟨⟨requests, windows, engine, quiet, cycle, stopped⟩, loading⟩
    exact ⟨requests, windows, engine, quiet, cycle, stopped, loading⟩

/-- The engine has no request: nothing pending, nothing in flight. -/
structure EngineFree (s : State) : Prop where
  requests : s.RequestsMatchWindows
  windows : s.WindowsMatchRequests
  handed : s.handed = none
  exchange : s.engine.exchange = none
  stopped : s.sched.link = .stopped → s.sched.inCycle = false

/-- The engine has no request, and no record is out. -/
structure Rests (s : State) : Prop extends EngineFree s where
  out : s.out = none

/-! ### What keeps the agreement -/

theorem Steady.agrees {s t : State} (h : Steady s t) (hs : s.Agrees) : t.Agrees where
  requests := h.requests hs.requests
  windows := h.windows hs.requests hs.windows
  engine := by
    unfold OutAtEngine AtEngine
    rw [h.out, h.handed, h.engine]
    exact hs.engine
  quiet := by rw [h.handed, h.engine]; exact hs.quiet
  cycle := by rw [h.handed, h.engine, h.inCycle]; exact hs.cycle
  stopped := by rw [h.link, h.inCycle]; exact hs.stopped

theorem Steady.engineFree {s t : State} (h : Steady s t) (hs : s.EngineFree) : t.EngineFree where
  requests := h.requests hs.requests
  windows := h.windows hs.requests hs.windows
  handed := h.handed.trans hs.handed
  exchange := by rw [h.engine]; exact hs.exchange
  stopped := by rw [h.link, h.inCycle]; exact hs.stopped

theorem Steady.rests {s t : State} (h : Steady s t) (hs : s.Rests) : t.Rests :=
  ⟨h.engineFree hs.toEngineFree, h.out.trans hs.out⟩

theorem OutGone.rests {s t : State} (h : OutGone s t) (hs : s.EngineFree) : t.Rests where
  requests := h.requests hs.requests
  windows := h.windows hs.requests hs.windows
  handed := h.handed.trans hs.handed
  exchange := by rw [h.engine]; exact hs.exchange
  stopped := by rw [h.link, h.inCycle]; exact hs.stopped
  out := h.out

theorem not_atEngine {s : State} (handed : s.handed = none) (exchange : s.engine.exchange = none) (k : Kind) (i : Fin 16) :
    ¬ s.AtEngine k i := by
  rintro (h | ⟨x, h, -⟩)
  · rw [handed] at h; cases h
  · rw [exchange] at h; cases h

theorem Rests.agrees {s : State} (h : s.Rests) : s.Agrees where
  requests := h.requests
  windows := h.windows
  engine := by
    refine ⟨fun k i _ e => absurd e (not_atEngine h.handed h.exchange k i), fun r e => ?_⟩
    rw [h.out] at e; cases e
  quiet e := absurd h.handed e
  cycle e := by
    rcases e with e | e
    · exact absurd h.handed e
    · exact absurd h.exchange e
  stopped := h.stopped

/-- With nothing at the engine, no record is out. -/
theorem Agrees.rests {s : State} (h : s.Agrees) (handed : s.handed = none) (exchange : s.engine.exchange = none) :
    s.Rests where
  requests := h.requests
  windows := h.windows
  handed := handed
  exchange := exchange
  stopped := h.stopped
  out := Option.eq_none_iff_forall_ne_some.mpr fun r e => not_atEngine handed exchange _ _ (h.engine.2 r e)

/-- Outside a cycle the engine has no request. -/
theorem Agrees.rests_of_no_cycle {s : State} (h : s.Agrees) (ended : s.sched.inCycle = false) : s.Rests := by
  have engaged : ¬(s.handed ≠ none ∨ s.engine.exchange ≠ none) := fun e => by
    rw [h.cycle e] at ended; cases ended
  exact h.rests (by_contra fun e => engaged (.inl e)) (by_contra fun e => engaged (.inr e))

theorem Agrees.handed_none {s : State} (h : s.Agrees) (exchange : s.engine.exchange ≠ none) : s.handed = none := by
  by_contra e
  obtain ⟨rate, since, q⟩ := h.quiet e
  exact exchange (by rw [q]; rfl)

theorem Agrees.exchange_none {s : State} (h : s.Agrees) (handed : s.handed ≠ none) : s.engine.exchange = none := by
  by_contra e
  exact handed (h.handed_none e)

/-- The record out is not that of a cyclic or identification request at the engine. -/
theorem Agrees.out_none {s : State} (h : s.Agrees) {k : Kind} (planned : k = .cyclic ∨ k = .ident)
    (only : ∀ k' i', s.AtEngine k' i' → k' = k) : s.out = none := by
  refine Option.eq_none_iff_forall_ne_some.mpr fun r e => ?_
  have kind := only _ _ (h.engine.2 r e)
  obtain ⟨cyclic, ident⟩ := r.kind.kind_ne_planned
  rcases planned with rfl | rfl
  · exact cyclic kind
  · exact ident kind

/-! ### A request is handed over -/

/-- A request handed to an engine that has none: begun in READY, pending in QUIET (R4). -/
theorem hand_free_cases {s : State} (k : Kind) (i : Fin 16) (h : s.engine.exchange = none) :
    (∃ x, x.kind = k ∧ x.slot = i ∧ s.hand k i = { s with engine := .sending x, handed := none }) ∨
      ((∃ rate since, s.engine = .quiet rate since) ∧ s.hand k i = { s with handed := some ⟨k, i⟩ }) := by
  unfold hand
  split
  · exact .inl ⟨_, rfl, rfl, rfl⟩
  · next e => exact .inr ⟨⟨_, _, e⟩, rfl⟩
  all_goals
    next e => rw [e] at h; cases h

/-- The engine has the request it was handed and no other. -/
theorem hand_atEngine {s : State} {k : Kind} {i : Fin 16} (h : s.engine.exchange = none)
    (k' : Kind) (i' : Fin 16) : (s.hand k i).AtEngine k' i' ↔ k = k' ∧ i = i' := by
  rcases s.hand_free_cases k i h with ⟨x, rfl, rfl, e⟩ | ⟨-, e⟩
  · rw [e]
    simp [AtEngine, Engine.exchange]
  · rw [e]
    simp [AtEngine, h]

/-- A request is handed to a free engine in a cycle: the record out, if there is one, is its own. -/
theorem hand_agrees {s : State} {k : Kind} {i : Fin 16} (requests : s.RequestsMatchWindows)
    (windows : s.WindowsMatchRequests) (exchange : s.engine.exchange = none)
    (inCycle : s.sched.inCycle = true) (link : s.sched.link ≠ .stopped)
    (out : ∀ r, s.out = some r → r.kind.kind = k ∧ r.slot = i) (own : k = .read ∨ k = .write → ∃ r, s.out = some r) :
    (s.hand k i).Agrees := by
  obtain ⟨engine, pending, e⟩ := s.hand_frame k i
  have cycle : (s.hand k i).sched = s.sched := by rw [e]
  have sameOut : (s.hand k i).out = s.out := by rw [e]
  refine ⟨(s.hand_tracks k i).requests requests, (s.hand_tracks k i).windows requests windows, ?_, ?_,
    fun _ => by rw [cycle]; exact inCycle, fun h => absurd (by rw [cycle] at h; exact h) link⟩
  · unfold OutAtEngine
    simp only [hand_atEngine exchange, sameOut]
    refine ⟨?_, fun r h => ?_⟩
    · rintro k' i' planned ⟨rfl, rfl⟩
      obtain ⟨r, h⟩ := own planned
      exact ⟨r, h, out r h⟩
    · obtain ⟨rfl, rfl⟩ := out r h
      exact ⟨rfl, rfl⟩
  · intro h
    rcases s.hand_free_cases k i exchange with ⟨x, -, -, e⟩ | ⟨⟨rate, since, q⟩, e⟩
    · rw [e] at h; exact absurd rfl h
    · rw [e]; exact ⟨rate, since, q⟩

/-! ### The turns -/

/-- The engine has no request, and a cycle is in progress. -/
def RestsInCycle (s : State) : Prop := s.Rests ∧ s.sched.inCycle = true

/-- The engine has no request, and the link is not STOPPED. -/
def RestsLinked (s : State) : Prop := s.Rests ∧ s.sched.link ≠ .stopped

theorem RestsInCycle.linked {s : State} (h : s.RestsInCycle) : s.sched.link ≠ .stopped := fun e => by
  have := h.1.stopped e
  rw [h.2] at this
  cases this

theorem planTurn_agrees {s t : State} (h : s.RestsInCycle) (e : s.planTurn s.sched.plan = some t) : t.Agrees := by
  have linked := h.linked
  obtain ⟨rests, inCycle⟩ := h
  rcases s.planTurn_cases s.sched.plan with n | ⟨k, j, rest, -, turn, m⟩
  · rw [n] at e; cases e
  · rw [m] at e; cases e
    have kept : RequestsKept s (s.modSched fun c => { c with plan := rest }) :=
      s.modSched_kept (fun _ => rfl) fun _ => rfl
    have free := kept.steady.rests rests
    refine hand_agrees free.requests free.windows free.exchange inCycle linked ?_ fun own => ?_
    · intro r e
      rw [free.out] at e; cases e
    · rcases HealthState.turn_planned turn with rfl | rfl <;> rcases own with e | e <;> cases e

theorem acyclicTurn_agrees {s t : State} (h : s.RestsInCycle) (e : s.acyclicTurn = some t) : t.Agrees := by
  have linked := h.linked
  obtain ⟨rests, inCycle⟩ := h
  obtain ⟨r, rest, queue, rfl⟩ := acyclicTurn_eq e
  have tracks := headOut_tracks rests.out queue fun c => { c with plan := [], acyclic := c.acyclic + 1 }
  refine hand_agrees (tracks.requests rests.requests) (tracks.windows rests.requests rests.windows)
    rests.exchange inCycle linked ?_ fun _ => ⟨r, rfl⟩
  intro x hx
  cases hx
  exact ⟨rfl, rfl⟩

/-- The link's state and the cycle's set while the engine has no request. -/
theorem modSched_rests {s : State} {f : Scheduler → Scheduler} (hs : s.Rests)
    (stopped : (f s.sched).link = .stopped → (f s.sched).inCycle = false) : (s.modSched f).Rests where
  requests := (s.modSched_tracks f).requests hs.requests
  windows := (s.modSched_tracks f).windows hs.requests hs.windows
  handed := hs.handed
  exchange := hs.exchange
  stopped := stopped
  out := hs.out

theorem endCycle_rests {s : State} (h : s.RestsInCycle) : s.endCycle.RestsLinked := by
  have changed := s.changeSlots_kept (·.cycleEnd s.config.staleLimit)
  have linked : (s.changeSlots (·.cycleEnd s.config.staleLimit)).sched.link ≠ .stopped := by
    rw [changed.link]
    exact h.linked
  have rests := changed.steady.rests h.1
  unfold endCycle
  generalize s.changeSlots (·.cycleEnd s.config.staleLimit) = t at linked rests
  have ended : (t.modSched fun c => { c with inCycle := false, plan := [] }).Rests := modSched_rests rests fun _ => rfl
  exact ⟨(phase_kept _ _).steady.rests ended, linked⟩

theorem beginCycle_rests {s : State} (h : s.RestsLinked) : s.beginCycle.RestsInCycle := by
  have counted : RequestsKept s (s.modSched fun c => { c with cycle := c.cycle + 1 }) :=
    s.modSched_kept (fun _ => rfl) fun _ => rfl
  have timed := counted.trans (timerCapture_kept _)
  unfold beginCycle
  refine ⟨modSched_rests (timed.steady.rests h.1) fun e => ?_, rfl⟩
  exact absurd (timed.link.symm.trans e) h.2

theorem notDeferred_kept (s : State) : RequestsKept s (s.modSched fun c => { c with deferred := false }) :=
  s.modSched_kept (fun _ => rfl) fun _ => rfl

theorem turns_agrees (n : Nat) {s : State} (hs : s.RestsInCycle) : (s.turns n).Agrees :=
  turns_keeps (X := RestsInCycle) (Z := RestsLinked) (fun _ _ => planTurn_agrees) (fun _ _ => acyclicTurn_agrees)
    (fun _ => endCycle_rests)
    (fun _ h => beginCycle_rests ⟨(notDeferred_kept _).steady.rests h.1, h.2⟩)
    (fun _ h => h.1.agrees) (fun _ h => h.1.agrees) n hs

theorem startCycle_agrees {s : State} (h : s.RestsLinked) : s.startCycle.Agrees := turns_agrees 2 (beginCycle_rests h)

theorem startLink_agrees {s : State} (h : s.Rests) : s.startLink.Agrees := by
  refine startCycle_agrees ⟨(raiseAll_kept _ _).steady.rests (modSched_rests h fun e => ?_), fun e => ?_⟩
  · cases e
  · cases e

/-! ### The link stops -/

/-- A request withdrawn leaves the engine with none. -/
theorem withdraw_rests {s : State} (c : Cause) (hs : s.Agrees) (exchange : s.engine.exchange = none) :
    (s.withdraw c).Rests ∧ (s.withdraw c).sched.inCycle = s.sched.inCycle := by
  unfold withdraw
  split
  · next h => exact ⟨hs.rests h exchange, rfl⟩
  · next h e =>
    have withdrawn : ({ s with handed := none } : State).EngineFree :=
      ⟨(tracks_of_eq (fun _ _ => rfl) rfl rfl).requests hs.requests,
        (tracks_of_eq (fun _ _ => rfl) rfl rfl).windows hs.requests hs.windows, rfl, exchange, hs.stopped⟩
    have only : ∀ k i, s.AtEngine k i → k = h.kind := by
      rintro k i (m | ⟨x, m, -⟩)
      · rw [e] at m; cases m; rfl
      · rw [exchange] at m; cases m
    dsimp only
    split
    · next k => exact ⟨⟨withdrawn, hs.out_none (.inl k) only⟩, rfl⟩
    · next k => exact ⟨⟨withdrawn, hs.out_none (.inr k) only⟩, rfl⟩
    · exact ⟨(dropOut_outGone _ c).rests withdrawn, (dropOut_outGone _ c).inCycle⟩
    · exact ⟨(dropOut_outGone _ c).rests withdrawn, (dropOut_outGone _ c).inCycle⟩

theorem enterStopped_rests {s : State} (hs : s.Agrees) (exchange : s.engine.exchange = none) : s.enterStopped.Rests := by
  have withdrawn := (withdraw_rests .linkStopped hs exchange).1
  have emptied := (removeRequests_steady _ (fun _ => true) .linkStopped).rests withdrawn
  have told := ((changeSlots_kept _ (·.stop)).trans (raiseAll_kept _ .linkChange)).steady.rests emptied
  exact (phase_kept _ _).steady.rests (modSched_rests told fun _ => rfl)

theorem endStopping_rests {s : State} (hs : s.Agrees) (exchange : s.engine.exchange = none) : s.endStopping.Rests :=
  (tellWaiters_kept _).steady.rests (enterStopped_rests hs exchange)

/-! ### Reports -/

/-- A report passed on leaves no record out. -/
theorem passReport_rests {s : State} {k : Kind} (i : Fin 16) (d : Decision) (hs : s.EngineFree)
    (out : k = .cyclic ∨ k = .ident → s.out = none) :
    (s.passReport k i d).Rests ∧ (s.passReport k i d).sched.inCycle = s.sched.inCycle := by
  unfold passReport
  split
  · have mark : RequestsKept s (s.modSched fun c => { c with discard := false }) :=
      s.modSched_kept (fun _ => rfl) fun _ => rfl
    have free := mark.steady.engineFree hs
    unfold passDiscarded
    cases k
    · exact ⟨⟨free, out (.inl rfl)⟩, rfl⟩
    · exact ⟨⟨free, out (.inr rfl)⟩, rfl⟩
    · exact ⟨(dropOut_outGone _ _).rests free, (dropOut_outGone _ _).inCycle⟩
    · exact ⟨(dropOut_outGone _ _).rests free, (dropOut_outGone _ _).inCycle⟩
  · have taken := s.healthEvidence_steady i k d
    have free := taken.engineFree hs
    unfold passContents
    cases k
    · have rests : (s.healthEvidence i .cyclic d).Rests := ⟨free, taken.out.trans (out (.inl rfl))⟩
      cases d
      · exact ⟨(applyCyclic_kept _ _ _).steady.rests rests, (applyCyclic_kept _ _ _).inCycle.trans taken.inCycle⟩
      · exact ⟨rests, taken.inCycle⟩
    · exact ⟨⟨free, taken.out.trans (out (.inr rfl))⟩, taken.inCycle⟩
    · exact ⟨(windowReport_outGone _ _).rests free, (windowReport_outGone _ _).inCycle.trans taken.inCycle⟩
    · exact ⟨(windowReport_outGone _ _).rests free, (windowReport_outGone _ _).inCycle.trans taken.inCycle⟩

theorem decideOutcome_agrees {s : State} {x : Exchange} (d : Decision) (hs : s.Agrees)
    (exchange : s.engine.exchange = some x) : (s.decideOutcome x d).Agrees := by
  have busy : s.engine.exchange ≠ none := by rw [exchange]; exact Option.some_ne_none x
  have only : ∀ k i, s.AtEngine k i → k = x.kind := by
    rintro k i (m | ⟨y, m, rfl, -⟩)
    · rw [hs.handed_none busy] at m; cases m
    · rw [exchange] at m; cases m; rfl
  have free : ({ s with engine := .quiet x.rate .quietEntry } : State).EngineFree :=
    ⟨(tracks_of_eq (fun _ _ => rfl) rfl rfl).requests hs.requests,
      (tracks_of_eq (fun _ _ => rfl) rfl rfl).windows hs.requests hs.windows, hs.handed_none busy, rfl, hs.stopped⟩
  obtain ⟨rests, inCycle⟩ := passReport_rests x.slot d free fun planned =>
    hs.out_none planned only
  unfold decideOutcome afterReport
  split
  · exact turns_agrees 2 ⟨rests, inCycle.trans (hs.cycle (.inr busy))⟩
  · exact (endStopping_rests rests.agrees rests.exchange).agrees
  · exact rests.agrees

theorem disableSlot_agrees {s : State} (i : Fin 16) (hs : s.Agrees) : (s.disableSlot i).Agrees := by
  have disabled := (s.disable_steady i).agrees hs
  unfold disableSlot withdrawDisabled
  split
  · next h e =>
    have pending : (((s.changeSlot i (·.disable)).slotLeft i).markDiscard i).handed ≠ none := by
      rw [e]; exact Option.some_ne_none h
    split
    · obtain ⟨rests, inCycle⟩ := withdraw_rests .slotLeft disabled (disabled.exchange_none pending)
      dsimp only
      split
      · exact turns_agrees 2 ⟨rests, inCycle.trans (disabled.cycle (.inl pending))⟩
      · exact rests.agrees
    · exact disabled
  · exact disabled

/-! ### The engine's own steps -/

/-- The engine goes on with the same request, or stays without one. -/
theorem engine_agrees {s : State} {e : Engine}
    (exchange : e.exchange.map (fun x => (x.kind, x.slot)) = s.engine.exchange.map fun x => (x.kind, x.slot))
    (quiet : (∃ r g, s.engine = .quiet r g) → ∃ r g, e = .quiet r g) (hs : s.Agrees) :
    ({ s with engine := e } : State).Agrees := by
  have same : ∀ k i, ({ s with engine := e } : State).AtEngine k i ↔ s.AtEngine k i := fun k i => by
    have : ∀ y : Option Exchange, (∃ x, y = some x ∧ x.kind = k ∧ x.slot = i) ↔
        y.map (fun x => (x.kind, x.slot)) = some (k, i) := fun y => by simp [Option.map_eq_some_iff, Prod.ext_iff]
    unfold AtEngine
    rw [this, this, exchange]
  have none : e.exchange ≠ none → s.engine.exchange ≠ none := fun h n => by
    rw [n, Option.map_none, Option.map_eq_none_iff] at exchange
    exact h exchange
  refine ⟨(tracks_of_eq (fun _ _ => rfl) rfl rfl).requests hs.requests,
    (tracks_of_eq (fun _ _ => rfl) rfl rfl).windows hs.requests hs.windows, ?_, fun h => quiet (hs.quiet h),
    fun h => hs.cycle (h.imp_right none), hs.stopped⟩
  unfold OutAtEngine
  simp only [same]
  exact hs.engine

/-- The engine enters READY: a pending request begins (R4, R5). -/
theorem enterReady_agrees {s : State} (quiet : ∃ r g, s.engine = .quiet r g) (hs : s.Agrees) : s.enterReady.Agrees := by
  obtain ⟨r, g, q⟩ := quiet
  have exchange : s.engine.exchange = none := by rw [q]; rfl
  unfold enterReady
  split
  · next h =>
    have rests := hs.rests h exchange
    exact (⟨⟨(tracks_of_eq (fun _ _ => rfl) rfl rfl).requests hs.requests,
      (tracks_of_eq (fun _ _ => rfl) rfl rfl).windows hs.requests hs.windows, h, rfl, hs.stopped⟩, rests.out⟩ :
      Rests { s with engine := .ready }).agrees
  · next h e =>
    have same : ∀ k i, (s.beginExchange h.kind h.slot).AtEngine k i ↔ s.AtEngine k i := fun k i => by
      obtain ⟨kind, slot⟩ := h
      unfold AtEngine
      rw [exchange, e]
      simp [beginExchange, newExchange, Engine.exchange]
    refine ⟨(tracks_of_eq (fun _ _ => rfl) rfl rfl).requests hs.requests,
      (tracks_of_eq (fun _ _ => rfl) rfl rfl).windows hs.requests hs.windows, ?_, fun n => absurd rfl n,
      fun _ => hs.cycle (.inl (by rw [e]; exact Option.some_ne_none h)), hs.stopped⟩
    unfold OutAtEngine
    simp only [same]
    exact hs.engine

end State

end Sys2Proof.Machine
end

section
/-! SUPPORT. Every effect keeps the requests where the windows' states say, and the windows, the queue, the record out and the
engine in agreement. -/

namespace Sys2Proof.Machine

namespace State

theorem completeSave_kept (s : State) (x : Store) (v : Save) (good : Bool) (d : Byte) :
    RequestsKept s (({ s with store := x } : State).completeSave v good d) := by
  have ended : ∀ y : Store, RequestsKept s { s with store := y } := fun _ => ⟨fun _ _ => rfl, rfl, rfl, rfl, rfl, rfl, rfl⟩
  unfold completeSave
  dsimp only
  split
  · exact (ended _).trans (complete_kept _ _ _ _ _)
  · exact ended _

/-- A step of a save leaves the requests alone. -/
theorem store_kept {s t : State} (h : StoreEffect s t) : RequestsKept s t := by
  have stored : ∀ y : Store, RequestsKept s { s with store := y } := fun _ => ⟨fun _ _ => rfl, rfl, rfl, rfl, rfl, rfl, rfl⟩
  cases h with
  | detached p => exact stored _
  | starts p _ => exact stored _
  | erased v _ _ => exact stored _
  | written v misread _ _ =>
    unfold saveWritten
    dsimp only
    split
    · exact stored _
    · exact s.completeSave_kept _ v false 1
  | validated v cell1 cell0 _ _ =>
    unfold saveValidated
    dsimp only
    split
    · exact s.completeSave_kept _ v true 0
    · exact s.completeSave_kept _ v false 2

theorem subscribe_kept (s : State) (p : Port) : RequestsKept s (s.subscribe p) := by
  unfold subscribe
  split
  · exact .refl s
  · exact s.modPort_kept p fun _ => rfl

theorem unsubscribe_kept (s : State) (p : Port) : RequestsKept s (s.unsubscribe p) := by
  unfold unsubscribe
  split
  · refine .trans ?_ (reclaim_kept _)
    exact s.modPort_kept p fun _ => rfl
  · exact .refl s

theorem advancePast_kept (s : State) (p : Port) (r : CaptureRecord) : RequestsKept s (s.advancePast p r) := by
  refine .trans ?_ (reclaim_kept _)
  exact s.modPort_kept p fun _ => rfl

/-- An effect outside start-up and the link engine's work keeps the record out, the engine, the link's state and the cycle's. -/
theorem effect_steady {s t : State} (h : Effect s t) : Steady s t ∨ (s.ready = false ∧ t = s.startUp) ∨ LinkEffect s t := by
  cases h with
  | config h =>
    cases h with
    | startUp loading => exact .inr (.inl ⟨loading, rfl⟩)
    | setting g v _ => exact .inl (RequestsKept.steady ⟨fun _ _ => rfl, rfl, rfl, rfl, rfl, rfl, rfl⟩)
    | slotConfig i f v _ _ => exact .inl (s.slots_kept _).steady
    | claims v _ => exact .inl (s.slots_kept v).steady
    | enable i _ _ _ => exact .inl (s.changeSlot_kept i _).steady
  | store h => exact .inl (store_kept h).steady
  | link h => exact .inr (.inr h)
  | context p f windows _ => exact .inl (s.modPort_kept p windows).steady
  | flag e => exact .inl (s.raiseAll_kept e).steady
  | capt l => exact .inl (RequestsKept.steady ⟨fun _ _ => rfl, rfl, rfl, rfl, rfl, rfl, rfl⟩)
  | capture x => exact .inl (s.takeCapture_kept x).steady
  | restart i _ => exact .inl (s.changeSlot_kept i _).steady
  | window p w f state => exact .inl (s.modWindow_kept p w state).steady
  | windowFails p w c d free => exact .inl (failWindow_free_steady c d free)
  | request p w k free _ _ => exact .inl (enqueue_steady k free)
  | cancel p w => exact .inl (s.cancelWindow_steady p w)
  | windowsClear p => exact .inl (s.clearWindows_steady p)
  | subscribe p => exact .inl (s.subscribe_kept p).steady
  | unsubscribe p => exact .inl (s.unsubscribe_kept p).steady
  | advance p r _ => exact .inl (s.advancePast_kept p r).steady
  | counts f link inCycle => exact .inl (s.modSched_kept link inCycle).steady

/-! ### Start-up -/

theorem loadConfig_kept (s : State) (r : PerPort Role) : RequestsKept s { s.loadConfig with roles := r } := by
  unfold loadConfig
  dsimp only
  split <;> exact ⟨fun _ _ => rfl, rfl, rfl, rfl, rfl, rfl, rfl⟩

theorem ready_kept (s : State) (b : Bool) : RequestsKept s { s with ready := b } :=
  ⟨fun _ _ => rfl, rfl, rfl, rfl, rfl, rfl, rfl⟩

theorem startUpEnabled_kept (s : State) : RequestsKept s s.startUpEnabled :=
  startUpEnabled_keeps (X := RequestsKept s) (s.loadConfig_kept _) fun t i _ h => h.trans (t.changeSlot_kept i _)

theorem startUp_matches {s : State} (hs : s.RequestsMatchWindows) : s.startUp.RequestsMatchWindows := by
  have enabled := s.startUpEnabled_kept.tracks.requests hs
  rw [startUp_eq]
  refine (ready_kept _ true).tracks.requests ?_
  unfold startUpLinked
  split
  · exact startLink_matches enabled
  · exact enabled

theorem startUp_agrees {s : State} (hs : s.Rests) : s.startUp.Agrees := by
  have enabled := s.startUpEnabled_kept.steady.rests hs
  rw [startUp_eq]
  refine (ready_kept _ true).steady.agrees ?_
  unfold startUpLinked
  split
  · exact startLink_agrees enabled
  · exact enabled.agrees

/-! ### Every effect -/

theorem link_matches {s t : State} (h : LinkEffect s t) (hs : s.RequestsMatchWindows) : t.RequestsMatchWindows := by
  cases h with
  | disable i _ =>
    unfold disableSlot
    exact withdrawDisabled_matches i ((s.disable_steady i).requests hs)
  | linkStarts _ _ => exact startLink_matches hs
  | linkStopping _ _ => exact (s.modSched_tracks _).requests hs
  | linkStops _ _ => exact s.enterStopped_tracks.requests hs
  | engine e _ _ => exact (tracks_of_eq (fun _ _ => rfl) rfl rfl).requests hs
  | engineReady _ =>
    unfold enterReady
    split <;> exact (tracks_of_eq (fun _ _ => rfl) rfl rfl).requests hs
  | decided x d _ => exact decideOutcome_matches x d hs
  | cycle _ _ => exact startCycle_matches hs

theorem effect_matches {s t : State} (h : Effect s t) (hs : s.RequestsMatchWindows) : t.RequestsMatchWindows := by
  rcases effect_steady h with k | ⟨-, rfl⟩ | k
  · exact k.requests hs
  · exact startUp_matches hs
  · exact link_matches k hs

theorem link_agrees {s t : State} (h : LinkEffect s t) (hs : s.Agrees) : t.Agrees := by
  cases h with
  | disable i _ => exact disableSlot_agrees i hs
  | linkStarts _ stopped => exact startLink_agrees (hs.rests_of_no_cycle (hs.stopped stopped))
  | linkStopping _ _ =>
    exact ⟨(s.modSched_tracks _).requests hs.requests, (s.modSched_tracks _).windows hs.requests hs.windows, hs.engine,
      hs.quiet, hs.cycle, nofun⟩
  | linkStops _ idle =>
    exact (enterStopped_rests hs (by simpa [inFlight] using idle)).agrees
  | engine e exchange quiet => exact engine_agrees exchange quiet hs
  | engineReady quiet => exact enterReady_agrees quiet hs
  | decided x d exchange => exact decideOutcome_agrees d hs exchange
  | cycle running ended =>
    exact startCycle_agrees ⟨hs.rests_of_no_cycle ended, by rw [running]; decide⟩

/-- Before READY the link is STOPPED, and its engine has nothing to do. -/
theorem link_stopped {s t : State} (h : LinkEffect s t) (hs : s.Agrees) (loading : s.ready = false)
    (stopped : s.sched.link = .stopped) : t.sched.link = .stopped := by
  have rests := hs.rests_of_no_cycle (hs.stopped stopped)
  cases h with
  | disable i _ =>
    have disabled := s.disable_steady i
    unfold disableSlot withdrawDisabled
    rw [disabled.handed.trans rests.handed]
    exact disabled.link.trans stopped
  | linkStarts ready _ => rw [ready] at loading; cases loading
  | linkStopping running _ => rw [running] at stopped; cases stopped
  | linkStops running _ => rw [running] at stopped; cases stopped
  | engine e _ _ => exact stopped
  | engineReady _ => unfold enterReady; split <;> exact stopped
  | decided x d exchange => rw [rests.exchange] at exchange; cases exchange
  | cycle running _ => rw [running] at stopped; cases stopped

theorem effect_requestsSound {s t : State} (h : Effect s t) (hs : s.RequestsSound) : t.RequestsSound := by
  obtain ⟨agrees, first⟩ := s.requestsSound_iff.mp hs
  refine t.requestsSound_iff.mpr ?_
  rcases effect_steady h with k | ⟨loading, rfl⟩ | k
  · refine ⟨k.agrees agrees, fun loading => ?_⟩
    rw [k.link]
    refine first ?_
    rcases effect_frame h with f | f | f
    · exact f.ready.symm.trans loading
    · cases f with
      | startUp e => exact e
      | enable i _ _ _ => rw [changeSlot_eq] at loading; exact loading
      | _ => exact loading
    · obtain ⟨x, e⟩ := store_frame f
      exact e.ready.symm.trans loading
  · exact ⟨startUp_agrees (agrees.rests_of_no_cycle (agrees.stopped (first loading))), nofun⟩
  · refine ⟨link_agrees k agrees, fun loading => ?_⟩
    have loading := (link_frame k).ready.symm.trans loading
    exact link_stopped k agrees loading (first loading)

/-! ### Part reset and the levels -/

theorem partReset_rests (s : State) (cause : ResetCause) (addr : Level) (cut : SaveCut) :
    (s.partReset cause addr cut).Rests := by
  have idle : ∀ p w, ((s.partReset cause addr cut).window p w).state = .idle := by
    have reset : ∀ p w, (State.reset.window p w).state = .idle := by intro p; cases p <;> decide
    exact reset
  refine ⟨⟨⟨nofun, List.nodup_nil, nofun⟩, fun p w => ⟨fun e => ?_, fun e => ?_⟩, rfl, rfl, fun _ => rfl⟩, rfl⟩
  · rw [idle] at e; cases e
  · rw [idle] at e; rcases e with e | e <;> cases e

theorem partReset_requestsSound (s : State) (cause : ResetCause) (addr : Level) (cut : SaveCut) :
    (s.partReset cause addr cut).RequestsSound :=
  (requestsSound_iff _).mpr ⟨(s.partReset_rests cause addr cut).agrees, fun _ => rfl⟩

theorem settle_kept (s : State) : RequestsKept s s.settle :=
  ⟨fun p w => by rw [settle_window], rfl, rfl, rfl, rfl, rfl, rfl⟩

theorem RequestsKept.requestsSound {s t : State} (h : RequestsKept s t) (ready : t.ready = s.ready)
    (hs : s.RequestsSound) : t.RequestsSound := by
  obtain ⟨agrees, first⟩ := s.requestsSound_iff.mp hs
  refine t.requestsSound_iff.mpr ⟨h.steady.agrees agrees, ?_⟩
  rw [ready, h.link]
  exact first

end State

/-- Settles O56: a window is busy from its request's trigger to its report, its withdrawal or its CANCEL; the scheduler takes a turn
only when the engine has no request. -/
theorem stepKeepsRequestsMatchWindows : Obligations.StepKeepsRequestsMatchWindows :=
  ⟨fun _ _ hs h => State.step_keeps (X := State.RequestsMatchWindows) (fun _ _ h => h) (fun _ _ _ _ h => h)
      (fun s => s.settle_kept.tracks.requests)
      (fun s cause addr cut _ => (s.partReset_rests cause addr cut).requests) (fun _ _ => State.effect_matches) hs h,
    fun _ _ hs h => State.step_keeps (X := State.RequestsSound) (fun _ _ h => h) (fun _ _ _ _ h => h)
      (fun s => s.settle_kept.requestsSound rfl) (fun s cause addr cut _ => s.partReset_requestsSound cause addr cut)
      (fun _ _ => State.effect_requestsSound) hs h⟩

end Sys2Proof.Machine
end

section
/-! SUPPORT. The request queue within its depth, each record for an ACTIVE or SUSPECT slot (R103, R110). -/

namespace Sys2Proof.Machine

namespace State

/-- The queue is within its depth and each of its records is for a slot that is ACTIVE or SUSPECT. -/
def QueueFits (s : State) : Prop := s.QueueBounded ∧ ∀ r ∈ s.queue, (s.slot r.slot).health.state.linked = true

/-- No record joins the queue, and no slot leaves ACTIVE and SUSPECT. -/
structure QueueShrinks (s t : State) : Prop where
  queue : t.queue.Sublist s.queue
  linked : ∀ i, (s.slot i).health.state.linked = true → (t.slot i).health.state.linked = true

theorem QueueShrinks.refl (s : State) : QueueShrinks s s := ⟨.refl _, fun _ => id⟩

theorem QueueShrinks.trans {s t u : State} (h : QueueShrinks s t) (k : QueueShrinks t u) : QueueShrinks s u :=
  ⟨k.queue.trans h.queue, fun i => k.linked i ∘ h.linked i⟩

theorem QueueShrinks.fits {s t : State} (h : QueueShrinks s t) (hs : s.QueueFits) : t.QueueFits :=
  ⟨h.queue.length_le.trans hs.1, fun r hr => h.linked _ (hs.2 r (h.queue.subset hr))⟩

/-- An operation that leaves the queue and the slots. -/
theorem shrinks_of_eq {s t : State} (queue : t.queue = s.queue) (slots : t.slots = s.slots) : QueueShrinks s t := by
  refine ⟨by rw [queue], fun i h => ?_⟩
  unfold slot
  rw [slots]
  exact h

theorem queueFits_of_empty {s : State} (h : s.queue = []) : s.QueueFits := by
  unfold QueueFits QueueBounded
  rw [h]
  exact ⟨Nat.zero_le _, nofun⟩

/-- A record joins the queue, for a linked slot and with room for it. -/
theorem queueFits_append {s t : State} {r : Request} (queue : t.queue = s.queue ++ [r]) (slots : t.slots = s.slots)
    (room : s.queue.length < Config.queueDepth) (linked : (s.slot r.slot).health.state.linked = true)
    (hs : s.QueueFits) : t.QueueFits := by
  unfold QueueFits QueueBounded slot
  rw [queue, slots]
  refine ⟨by rw [List.length_append]; exact room, fun x hx => ?_⟩
  rcases List.mem_append.mp hx with hx | hx
  · exact hs.2 x hx
  · rw [List.mem_singleton.mp hx]
    exact linked

/-! ### The slots -/

theorem changeSlots_slot (s : State) (f : Slot → Slot) (i : Fin 16) : (s.changeSlots f).slot i = f (s.slot i) := by
  rw [changeSlots_eq, modPorts_slot, modSlots_slot]

theorem changeSlots_shrinks {s : State} {f : Slot → Slot}
    (h : ∀ x : Slot, x.health.state.linked = true → (f x).health.state.linked = true) :
    QueueShrinks s (s.changeSlots f) := by
  refine ⟨by rw [(s.changeSlots_kept f).queue], fun i hi => ?_⟩
  rw [changeSlots_slot]
  exact h _ hi

theorem modSlot_shrinks {s : State} {i : Fin 16} {f : Slot → Slot}
    (h : (s.slot i).health.state.linked = true → (f (s.slot i)).health.state.linked = true) :
    QueueShrinks s (s.modSlot i f) := by
  refine ⟨.refl _, fun j hj => ?_⟩
  rw [modSlot_slot]
  split
  · next e => subst e; exact h hj
  · exact hj

theorem changeSlot_shrinks {s : State} {i : Fin 16} {f : Slot → Slot}
    (h : (s.slot i).health.state.linked = true → (f (s.slot i)).health.state.linked = true) :
    QueueShrinks s (s.changeSlot i f) := by
  refine ⟨by rw [changeSlot_eq]; exact .refl _, fun j hj => ?_⟩
  rw [changeSlot_slot_eq]
  split
  · next e => subst e; exact h hj
  · exact hj

/-- A slot leaves, and its records with it (R110). -/
theorem changeSlot_slotLeft_fits {s : State} (i : Fin 16) (f : Slot → Slot) (hs : s.QueueFits) :
    ((s.changeSlot i f).slotLeft i).QueueFits := by
  have queue : ((s.changeSlot i f).slotLeft i).queue = s.queue.filter fun r => !decide (r.slot = i) := by
    unfold slotLeft
    rw [removeRequests_queue, changeSlot_eq]
    rfl
  have slots : ∀ j, ((s.changeSlot i f).slotLeft i).slot j = (s.changeSlot i f).slot j := fun j => by
    unfold slotLeft
    rw [removeRequests_eq]
    rfl
  unfold QueueFits QueueBounded
  rw [queue]
  refine ⟨(List.length_filter_le _ _).trans hs.1, fun r hr => ?_⟩
  obtain ⟨mem, kept⟩ := List.mem_filter.mp hr
  have ne : r.slot ≠ i := by simpa using kept
  rw [slots, changeSlot_slot_eq, if_neg ne]
  exact hs.2 r mem

theorem removeRequests_shrinks (s : State) (gone : Request → Bool) (c : Cause) :
    QueueShrinks s (s.removeRequests gone c) := by
  refine ⟨by rw [removeRequests_queue]; exact List.filter_sublist, fun i h => ?_⟩
  rw [removeRequests_eq]
  exact h

theorem healthEvidence_fits {s : State} (i : Fin 16) (k : Kind) (d : Decision) (hs : s.QueueFits) :
    (s.healthEvidence i k d).QueueFits := by
  unfold healthEvidence
  dsimp only
  split
  · exact changeSlot_slotLeft_fits i _ hs
  · next noLoss =>
    refine (changeSlot_shrinks fun linked => ?_).fits hs
    rcases Health.report_linked (s.slot i).config s.config k d linked with e | e
    · exact e
    · simp [lossBy, linked, e] at noLoss

/-! ### The record out, the turns, the link -/

theorem takeCapture_shrinks (s : State) (x : Source) : QueueShrinks s (s.takeCapture x) := by
  obtain ⟨slots, -, -, queue, -⟩ := s.takeCapture_frame x
  exact shrinks_of_eq queue slots

theorem hand_shrinks (s : State) (k : Kind) (i : Fin 16) : QueueShrinks s (s.hand k i) := by
  obtain ⟨engine, handed, e⟩ := s.hand_frame k i
  rw [e]
  exact shrinks_of_eq rfl rfl

theorem dropOut_shrinks (s : State) (c : Cause) : QueueShrinks s (s.dropOut c) := by
  unfold dropOut
  split
  · exact .refl s
  · dsimp only
    split
    · exact shrinks_of_eq rfl rfl
    · unfold endCancelling
      split <;> exact shrinks_of_eq rfl rfl
    all_goals exact shrinks_of_eq rfl rfl

theorem withdraw_shrinks (s : State) (c : Cause) : QueueShrinks s (s.withdraw c) := by
  have handed : QueueShrinks s { s with handed := none } := shrinks_of_eq rfl rfl
  unfold withdraw
  split
  · exact .refl s
  · dsimp only
    split
    · exact handed
    · exact handed
    · exact handed.trans (dropOut_shrinks _ c)
    · exact handed.trans (dropOut_shrinks _ c)

theorem rejoin_fits {s : State} (r : Request) (hs : s.QueueFits) : (s.rejoin r).QueueFits := by
  unfold rejoin
  split
  · exact (shrinks_of_eq rfl rfl).fits hs
  · split
    · exact (shrinks_of_eq rfl rfl).fits hs
    · next linked =>
      split
      · exact (shrinks_of_eq rfl rfl).fits hs
      · next room =>
        exact queueFits_append rfl rfl (Nat.lt_of_not_le room) (by simpa using linked) hs

theorem goodReply_fits {s : State} (r : Request) (busy : Bool) (payload : List Byte) (hs : s.QueueFits) :
    (s.goodReply r busy payload).QueueFits := by
  unfold goodReply
  split
  · exact rejoin_fits r hs
  · split
    · exact (shrinks_of_eq rfl rfl).fits hs
    · split <;> exact (shrinks_of_eq rfl rfl).fits hs

theorem windowReport_fits {s : State} (d : Decision) (hs : s.QueueFits) : (s.windowReport d).QueueFits := by
  have out : ({ s with out := none } : State).QueueFits := hs
  unfold windowReport
  split
  · exact hs
  · dsimp only
    split
    · split
      · exact goodReply_fits _ _ _ out
      · exact (shrinks_of_eq rfl rfl).fits hs
    · unfold endCancelling
      split <;> exact (shrinks_of_eq rfl rfl).fits hs
    all_goals exact hs

theorem applyCyclic_shrinks (s : State) (i : Fin 16) (r : Reply) : QueueShrinks s (s.applyCyclic i r) := by
  have updated : QueueShrinks s (s.modSlot i fun x => { x with input := x.input.apply x.config r }) := modSlot_shrinks id
  unfold applyCyclic
  split
  · dsimp only
    split
    · exact updated.trans (takeCapture_shrinks _ _)
    · exact updated
  · exact .refl s

theorem passReport_fits {s : State} (k : Kind) (i : Fin 16) (d : Decision) (hs : s.QueueFits) :
    (s.passReport k i d).QueueFits := by
  unfold passReport
  split
  · have mark : QueueShrinks s (s.modSched fun c => { c with discard := false }) := shrinks_of_eq rfl rfl
    unfold passDiscarded
    cases k
    · exact mark.fits hs
    · exact mark.fits hs
    · exact (mark.trans (dropOut_shrinks _ _)).fits hs
    · exact (mark.trans (dropOut_shrinks _ _)).fits hs
  · have taken := healthEvidence_fits i k d hs
    unfold passContents
    cases k
    · cases d
      · exact (applyCyclic_shrinks _ _ _).fits taken
      · exact taken
    · exact taken
    · exact windowReport_fits d taken
    · exact windowReport_fits d taken

theorem planTurn_shrinks {s t : State} {plan : List (Fin 16)} (h : s.planTurn plan = some t) : QueueShrinks s t := by
  rcases s.planTurn_cases plan with e | ⟨k, j, rest, -, -, e⟩
  · rw [e] at h; cases h
  · rw [e] at h; cases h
    have reached : QueueShrinks s (s.modSched fun c => { c with plan := rest }) := shrinks_of_eq rfl rfl
    exact reached.trans (hand_shrinks _ _ _)

theorem acyclicTurn_shrinks {s t : State} (h : s.acyclicTurn = some t) : QueueShrinks s t := by
  obtain ⟨r, rest, queue, rfl⟩ := acyclicTurn_eq h
  have out : ∀ f, QueueShrinks s (s.headOut r rest f) := fun f =>
    ⟨by rw [queue]; exact List.sublist_cons_self r rest, fun _ => id⟩
  exact (out _).trans (hand_shrinks _ _ _)

theorem endCycle_shrinks (s : State) : QueueShrinks s s.endCycle := by
  have changed : QueueShrinks s (s.changeSlots (·.cycleEnd s.config.staleLimit)) := changeSlots_shrinks fun x h =>
    (congrArg (fun y : Health => y.state.linked) (Health.cycleEnd_linked h)).trans h
  have rest : ∀ (t : State) (f : Scheduler → Scheduler) (b : Bool), QueueShrinks t { t.modSched f with phase := b } :=
    fun _ _ _ => shrinks_of_eq rfl rfl
  unfold endCycle
  exact changed.trans (rest _ _ _)

theorem timerCapture_shrinks (s : State) : QueueShrinks s s.timerCapture := by
  unfold timerCapture
  split
  · exact s.takeCapture_shrinks _
  · exact .refl s

theorem modSched_shrinks (s : State) (f : Scheduler → Scheduler) : QueueShrinks s (s.modSched f) := shrinks_of_eq rfl rfl

theorem beginCycle_shrinks (s : State) : QueueShrinks s s.beginCycle := by
  unfold beginCycle
  exact .trans (.trans (modSched_shrinks _ _) (timerCapture_shrinks _)) (modSched_shrinks _ _)

theorem turns_fits (n : Nat) {s : State} (hs : s.QueueFits) : (s.turns n).QueueFits :=
  turns_keeps (X := QueueFits) (Z := QueueFits) (fun _ _ hs h => (planTurn_shrinks h).fits hs)
    (fun _ _ hs h => (acyclicTurn_shrinks h).fits hs) (fun s => s.endCycle_shrinks.fits)
    (fun s => ((s.modSched_shrinks _).trans (beginCycle_shrinks _)).fits) (fun _ => id) (fun _ => id) n hs

theorem startLink_fits {s : State} (hs : s.QueueFits) : s.startLink.QueueFits := by
  have raised : ∀ f : Scheduler → Scheduler, QueueShrinks s ((s.modSched f).raiseAll .linkChange) := fun _ =>
    shrinks_of_eq rfl rfl
  exact turns_fits 2 ((beginCycle_shrinks _).fits ((raised _).fits hs))

/-- The link's stop empties the queue (R25). -/
theorem enterStopped_queue (s : State) : s.enterStopped.queue = [] := by
  have slots : ∀ t : State, (t.changeSlots (·.stop)).queue = t.queue := fun t => (t.changeSlots_kept _).queue
  simp [enterStopped, slots, removeRequests_queue]

theorem complete_shrinks (s : State) (p : Port) (code : Byte) (r : Result) (d : Byte) :
    QueueShrinks s (s.complete p code r d) := by
  unfold complete
  split <;> exact shrinks_of_eq rfl rfl

theorem tellWaiter_shrinks (s : State) (p : Port) : QueueShrinks s (s.tellWaiter p) := by
  unfold tellWaiter
  split
  · exact (s.modSched_shrinks _).trans (complete_shrinks _ _ _ _ _)
  · exact .refl s

theorem endStopping_fits (s : State) : s.endStopping.QueueFits :=
  ((s.enterStopped.tellWaiter_shrinks .a).trans ((tellWaiter_shrinks _ .b).trans (tellWaiter_shrinks _ .c))).fits
    (queueFits_of_empty s.enterStopped_queue)

theorem decideOutcome_fits {s : State} (x : Exchange) (d : Decision) (hs : s.QueueFits) :
    (s.decideOutcome x d).QueueFits := by
  have decided : ({ s with engine := .quiet x.rate .quietEntry } : State).QueueFits := hs
  have passed := passReport_fits x.kind x.slot d decided
  unfold decideOutcome afterReport
  split
  · exact turns_fits 2 passed
  · exact endStopping_fits _
  · exact passed

theorem disableSlot_fits {s : State} (i : Fin 16) (hs : s.QueueFits) : (s.disableSlot i).QueueFits := by
  have marked : (((s.changeSlot i (·.disable)).slotLeft i).markDiscard i).QueueFits := by
    rw [markDiscard_eq]
    exact (modSched_shrinks _ _).fits (changeSlot_slotLeft_fits i _ hs)
  unfold disableSlot withdrawDisabled
  split
  · split
    · have withdrawn := (withdraw_shrinks _ .slotLeft).fits marked
      dsimp only
      split
      · exact turns_fits 2 withdrawn
      · exact withdrawn
    · exact marked
  · exact marked

/-! ### Every effect -/

theorem link_fits {s t : State} (h : LinkEffect s t) (hs : s.QueueFits) : t.QueueFits := by
  cases h with
  | disable i _ => exact disableSlot_fits i hs
  | linkStarts _ _ => exact startLink_fits hs
  | linkStopping _ _ => exact (s.modSched_shrinks _).fits hs
  | linkStops _ _ => exact queueFits_of_empty s.enterStopped_queue
  | engine e _ _ => exact hs
  | engineReady _ => unfold enterReady; split <;> exact hs
  | decided x d _ => exact decideOutcome_fits x d hs
  | cycle _ _ => exact turns_fits 2 ((beginCycle_shrinks _).fits hs)

theorem not_linked_of_disabled {x : Slot} (h : x.health.state = .disabled) : x.health.state.linked ≠ true := by
  rw [h]; decide

/-- Before READY no slot is linked, so no record is queued. -/
theorem queue_empty_of_allDisabled {s : State} (hs : s.QueueFits) (off : s.AllDisabled) : s.queue = [] :=
  List.eq_nil_iff_forall_not_mem.mpr fun r hr => not_linked_of_disabled (off r.slot) (hs.2 r hr)

theorem ready_shrinks (s : State) (b : Bool) : QueueShrinks s { s with ready := b } := shrinks_of_eq rfl rfl

theorem startUp_fits {s : State} (queue : s.queue = []) : s.startUp.QueueFits := by
  have enabled : s.startUpEnabled.QueueFits := queueFits_of_empty (s.startUpEnabled_kept.queue.trans queue)
  rw [startUp_eq]
  refine (ready_shrinks _ true).fits ?_
  unfold startUpLinked
  split
  · exact startLink_fits enabled
  · exact enabled

theorem config_fits {s t : State} (h : ConfigEffect s t) (off : s.ready = false → s.AllDisabled) (hs : s.QueueFits) :
    t.QueueFits := by
  cases h with
  | startUp loading => exact startUp_fits (queue_empty_of_allDisabled hs (off loading))
  | setting g v _ => exact hs
  | slotConfig i f v off _ =>
    have kept : QueueShrinks s (s.modSlot i fun x => { x with config := x.config.put f v }) := modSlot_shrinks id
    exact kept.fits hs
  | claims v change =>
    have kept : QueueShrinks s { s with slots := v } :=
      ⟨.refl _, fun i hi => (congrArg (·.state.linked) (change i).health).trans hi⟩
    exact kept.fits hs
  | enable i _ disabled _ => exact (changeSlot_shrinks fun e => absurd e (not_linked_of_disabled disabled)).fits hs

theorem completeSave_shrinks (s : State) (x : Store) (v : Save) (good : Bool) (d : Byte) :
    QueueShrinks s (({ s with store := x } : State).completeSave v good d) := by
  have ended : ∀ y : Store, QueueShrinks s { s with store := y } := fun _ => shrinks_of_eq rfl rfl
  unfold completeSave
  dsimp only
  split
  · exact (ended _).trans (complete_shrinks _ _ _ _ _)
  · exact ended _

theorem store_shrinks {s t : State} (h : StoreEffect s t) : QueueShrinks s t := by
  have stored : ∀ y : Store, QueueShrinks s { s with store := y } := fun _ => shrinks_of_eq rfl rfl
  cases h with
  | written v misread _ _ =>
    unfold saveWritten
    dsimp only
    split
    · exact stored _
    · exact s.completeSave_shrinks _ v false 1
  | validated v cell1 cell0 _ _ =>
    unfold saveValidated
    dsimp only
    split
    · exact s.completeSave_shrinks _ v true 0
    · exact s.completeSave_shrinks _ v false 2
  | _ => exact stored _

theorem subscription_shrinks (s : State) (p : Port) :
    QueueShrinks s (s.subscribe p) ∧ QueueShrinks s (s.unsubscribe p) := by
  constructor
  · unfold subscribe
    split <;> exact shrinks_of_eq rfl rfl
  · unfold unsubscribe
    split <;> exact shrinks_of_eq rfl rfl

theorem cancelWindow_shrinks (s : State) (p : Port) (w : Fin 4) : QueueShrinks s (s.cancelWindow p w) := by
  unfold cancelWindow
  split
  · exact ⟨List.filter_sublist, fun _ => id⟩
  all_goals exact shrinks_of_eq rfl rfl

theorem effect_fits {s t : State} (h : Effect s t) (off : s.ready = false → s.AllDisabled) (hs : s.QueueFits) :
    t.QueueFits := by
  cases h with
  | config h => exact config_fits h off hs
  | store h => exact (store_shrinks h).fits hs
  | link h => exact link_fits h hs
  | context p f _ _ => exact hs
  | flag e => exact hs
  | capt l => exact hs
  | capture x => exact (s.takeCapture_shrinks x).fits hs
  | restart i locked =>
    refine (changeSlot_shrinks fun e => ?_).fits hs
    rw [locked] at e
    cases e
  | window p w f _ => exact hs
  | windowFails p w c d _ => exact hs
  | request p w k _ linked room => exact queueFits_append rfl rfl room linked hs
  | cancel p w => exact (s.cancelWindow_shrinks p w).fits hs
  | windowsClear p =>
    have kept : QueueShrinks s (s.clearWindows p) := ⟨List.filter_sublist, fun _ => id⟩
    exact kept.fits hs
  | subscribe p => exact (s.subscription_shrinks p).1.fits hs
  | unsubscribe p => exact (s.subscription_shrinks p).2.fits hs
  | advance p r _ => exact hs
  | counts f _ _ => exact hs

/-- What O55 keeps, with the two parts apart. -/
theorem queueSound_iff (s : State) :
    s.QueueBounded ∧ s.QueueLinked ↔ (s.ready = false → s.AllDisabled) ∧ s.QueueFits := by
  unfold QueueLinked QueueFits
  exact and_left_comm

end State

/-- Settles O55: a record joins the queue only with room for it and a linked slot, and leaves it when its slot leaves. -/
theorem stepKeepsQueueSound : Obligations.StepKeepsQueueSound := by
  intro s t hs h
  rw [State.queueSound_iff] at hs ⊢
  refine State.step_keeps (X := fun s => (s.ready = false → s.AllDisabled) ∧ s.QueueFits) (fun _ _ h => h)
    (fun _ _ _ _ h => h) (fun _ h => h) (fun s cause addr cut _ => ?_)
    (fun _ _ e h => ⟨State.effect_off e h.1, State.effect_fits e h.1 h.2⟩) hs h
  exact ⟨fun _ => s.partReset_allDisabled cause addr cut, State.queueFits_of_empty rfl⟩

end Sys2Proof.Machine
end

section
/-! SUPPORT. The machine and part reset: O1, O2, O5, O6 and O60. -/

namespace Sys2Proof.Machine

/-- Settles O1. -/
theorem stepTakesFrontCommand : Obligations.StepTakesFrontCommand := by
  refine ⟨fun c rest s h => ?_, fun s h => ?_⟩ <;>
    unfold step <;> rw [h]

namespace State

theorem startUp_pending (s : State) : s.startUp.pending = s.pending := by
  refine startUp_keeps (X := fun t => t.pending = s.pending) ?_ (fun t i _ h => ?_)
    (fun t h => t.startLink_frame.pending.trans h) fun _ h => h
  · unfold loadConfig
    dsimp only
    split <;> rfl
  · rw [changeSlot_eq]
    exact h

/-- No effect changes the commands that wait. -/
theorem effect_pending {s t : State} (h : Effect s t) : t.pending = s.pending := by
  rcases effect_frame h with h | h | h
  · exact h.pending
  · cases h with
    | startUp _ => exact s.startUp_pending
    | enable i _ _ _ => rw [changeSlot_eq]; rfl
    | _ => rfl
  · obtain ⟨x, e⟩ := store_frame h
    exact e.pending

theorem exec_pending (i : Instr) (s : State) : ∃ u : State, exec i s = .next u.settle ∧ u.pending = s.pending := by
  by_cases hi : ∃ cause addr cut, i = .partReset cause addr cut
  · obtain ⟨cause, addr, cut, rfl⟩ := hi
    exact ⟨_, rfl, rfl⟩
  · obtain ⟨t, e, u, x, y, z, works, rfl⟩ := exec_works i s fun cause addr cut h => hi ⟨cause, addr, cut, h⟩
    have kept : u.pending = s.pending :=
      effects_keep (X := fun v => v.pending = s.pending) (fun _ _ h k => (effect_pending h).trans k) works rfl
    exact ⟨_, e, kept⟩

theorem transmitEnable_iff (s : State) : s.transmitEnable = true ↔ ∃ x, s.engine = .sending x := by
  unfold transmitEnable
  cases s.engine <;> simp

end State

/-- CAPTURE_READY's bit as it is derived (R157). -/
def PortContext.readyBit (c : PortContext) : Byte := if c.hasRecord then captureReadyMask else 0

theorem PortContext.settle_eq (c : PortContext) :
    c.settle = { c with events := (c.events &&& 0xFE) ||| c.readyBit } := rfl

theorem PortContext.readyBit_cases (c : PortContext) : c.readyBit = 0 ∨ c.readyBit = 0x01 := by
  unfold readyBit
  split
  · exact .inr rfl
  · exact .inl rfl

/-- Settles O2: every command ends by settling, which derives the levels alone. -/
theorem everyCommandAnswersSettledState : Obligations.EveryCommandAnswersSettledState := by
  refine ⟨fun i s => ?_, fun i s => ?_, fun s => ?_⟩
  · obtain ⟨u, e, pending⟩ := State.exec_pending i s
    exact ⟨u.settle, e, pending, u.settle_settle⟩
  · obtain ⟨u, e⟩ := State.exec_settles i s
    exact ⟨u.settle, e, u.transmitEnable_iff⟩
  · refine ⟨s.ports.map (·.readyBit), s.settle.pins.attn, s.linkstatLevel, s.transmitEnable, rfl, fun p => ?_⟩
    rw [PerPort.get_map]
    exact PortContext.readyBit_cases _

/-! ### Part reset -/

/-- The transports after a part reset (R154). -/
theorem Spi.partReset_eq (x : Spi) : x.partReset = ⟨if x.phase = .idle then .idle else .abandoned, none⟩ := by
  unfold Spi.partReset
  cases x.phase <;> rfl

namespace State

theorem reset_settled : State.reset.settle = State.reset := by decide

/-- A part reset leaves the levels as they are derived. -/
theorem partReset_settled (s : State) (cause : ResetCause) (addr : Level) (cut : SaveCut) :
    (s.partReset cause addr cut).settle = s.partReset cause addr cut := by
  have levels : (s.partReset cause addr cut).settle =
      { s.partReset cause addr cut with
        ports := State.reset.settle.ports
        pins := { State.reset.settle.pins with capt := s.pins.capt } } := rfl
  rw [levels, reset_settled]
  rfl

theorem exec_partReset (s : State) (cause : ResetCause) (addr : Level) (cut : SaveCut) :
    exec (.partReset cause addr cut) s = .next (s.partReset cause addr cut) :=
  congrArg Host.Outcome.next (s.partReset_settled cause addr cut)

end State

theorem partResetResetsEveryBlock : Clause.PartResetResetsEveryBlock := by
  intro cause addr cut s save
  have cells : s.store.cutCells cut = s.store.cells := by unfold Store.cutCells; rw [save]
  rw [State.exec_partReset]
  unfold State.partReset
  rw [cells, Spi.partReset_eq, Spi.partReset_eq]
  rfl

theorem resetValuesByBlock : Clause.ResetValuesByBlock := by
  refine ⟨fun i => ?_, fun p => ?_, rfl, rfl, rfl, rfl, rfl, rfl, rfl, rfl, rfl, rfl, rfl, rfl, rfl, rfl, rfl, rfl, rfl,
    rfl, rfl⟩
  · rw [State.reset_slot]
    exact ⟨rfl, rfl, rfl, rfl⟩
  · have windows : ∀ w, State.reset.window p w =
        ⟨0, false, false, 0, 0, Vector.replicate 4 0, Vector.replicate 4 0, .idle, .none, 0, false, false⟩ := by
      cases p <;> decide
    cases p <;> exact ⟨rfl, rfl, rfl, rfl, rfl, rfl, rfl, rfl, rfl, windows⟩

/-- Settles O5. -/
theorem partResetTakesBlocksBack : Obligations.PartResetTakesBlocksBack := ⟨partResetResetsEveryBlock, resetValuesByBlock⟩

/-! ### A save that a part reset cuts -/

namespace Store

/-- The body phase writes no cell before 0x002, and so does its cut (R172, R175). -/
theorem read_cutBody {x : Store} {v : Save} {cut : SaveCut} {a : Nat} (wf : Memory.wf x.cells = true) (ha : a < 2) :
    Memory.read (Memory.ofBytes 0 (cutBody v.image (Memory.expand Config.storeSize 0 x.cells) cut)) a =
      Memory.read x.cells a := by
  have size : a < Config.storeSize := by unfold Config.storeSize; omega
  have length : (Memory.expand Config.storeSize 0 x.cells).length = Config.storeSize := Memory.length_expand _ _ _
  have old := Memory.getD_expand (n := Config.storeSize) wf size Config.erasedCell
  have front : a < ((Memory.expand Config.storeSize 0 x.cells).take 2).length := by
    rw [List.length_take, length]; unfold Config.storeSize; omega
  rw [Memory.read_ofBytes, if_pos ⟨Nat.zero_le _, size⟩, Nat.sub_zero]
  unfold cutBody
  dsimp only
  rw [List.getD_eq_getElem?_getD, List.append_assoc, List.getElem?_append_left front, List.getElem?_take_of_lt ha,
    ← List.getD_eq_getElem?_getD, old, Nat.zero_add]

/-- Once a cell of the validation word is erased, and until the last is written, no cut leaves the word (R171, R175). -/
theorem cutCells_no_word {x : Store} {v : Save} {cut : SaveCut} (wf : Memory.wf x.cells = true)
    (save : x.save = some v)
    (erased : v.phase ≠ .erase → Memory.read x.cells 0 = Config.erasedCell ∧ Memory.read x.cells 1 = Config.erasedCell)
    (begun : v.phase ≠ .erase ∨ cut.erased0 = true ∨ cut.erased1 = true) :
    ¬(Memory.read (x.cutCells cut) 0 = 0x2E ∧ Memory.read (x.cutCells cut) 1 = 0x6D) := by
  unfold cutCells
  rw [save]
  dsimp only
  rintro ⟨h0, h1⟩
  split at h0
  · next phase =>
    rw [phase] at h1
    have wf0 : Memory.wf (if cut.erased0 then Memory.write x.cells 0 Config.erasedCell else x.cells) = true := by
      split
      · exact Memory.wf_write wf
      · exact wf
    by_cases e1 : cut.erased1 = true
    · dsimp only at h1
      rw [if_pos e1, Memory.read_write wf0, if_pos (by decide)] at h1
      exact absurd h1 (by decide)
    · have e0 : cut.erased0 = true := by
        rcases begun with e | e | e
        · exact absurd phase e
        · exact e
        · exact absurd e e1
      rw [if_neg e1, if_pos e0, Memory.read_write wf, if_pos (by decide)] at h0
      exact absurd h0 (by decide)
  · next phase =>
    rw [read_cutBody wf (by decide), (erased (by rw [phase]; decide)).1] at h0
    exact absurd h0 (by decide)
  · next phase =>
    have cell0 := (erased (by rw [phase]; decide)).1
    split at h0
    · rw [Memory.read_write wf, if_neg (by decide), cell0] at h0
      exact absurd h0 (by decide)
    · rw [cell0] at h0
      exact absurd h0 (by decide)

end Store

/-- Settles O6: the save's first phase erases cells 0 and 1, its body writes neither, and its last writes cell 0 last. -/
theorem resetDuringSave : Obligations.ResetDuringSave := by
  intro cause addr cut s v _ sound save
  refine ⟨_, State.exec_partReset s cause addr cut, rfl, rfl, rfl, rfl, rfl, fun phase e0 e1 => ?_, fun begun => ?_⟩
  · show s.store.cutCells cut = s.store.cells
    unfold Store.cutCells
    rw [save]
    simp [phase, e0, e1]
  · exact Store.cutCells_no_word sound.1 save (sound.2 v save).2 begun

/-! ### The state after reset -/

namespace State

/-- The state after reset is its own part reset. -/
theorem partReset_reset (cut : SaveCut) : State.reset.partReset .powerOn .low cut = State.reset := rfl

end State

/-- Settles O60: the state after reset is a part reset, which has every invariant. -/
theorem resetHasInvariants : Obligations.ResetHasInvariants := by
  have cut : SaveCut := ⟨false, false, 0, false⟩
  have reset := State.partReset_reset cut
  refine ⟨State.storeSound_of_no_save rfl rfl, ?_, Nat.zero_le _, ⟨fun _ i => ?_, nofun⟩, ?_, ?_, ?_, ?_, ?_, ?_, ?_⟩
  · exact reset ▸ State.reset.partReset_inRange _ _ _
  · rw [State.reset_slot]; rfl
  · exact reset ▸ (State.reset.partReset_rests _ _ _).requests
  · exact reset ▸ State.reset.partReset_requestsSound _ _ _
  · exact reset ▸ State.reset.partReset_ringSound _ _ _
  · exact State.owners_of_unowned (reset ▸ State.reset.partReset_unowned _ _ _)
  · exact State.allDisabled_addressesUnique (reset ▸ State.reset.partReset_allDisabled _ _ _)
  · exact reset ▸ State.reset.partReset_records _ _ _
  · exact reset ▸ State.reset.partReset_settled _ _ _

end Sys2Proof.Machine
end

section
/-! SUPPORT. Start-up with a refused image, and which image the load refuses (R167, R169): O7. -/

namespace Sys2Proof.Machine

namespace State

theorem exec_storeLoadDone {s : State} (loading : s.ready = false) :
    exec .storeLoadDone s = .next s.startUp.settle := by
  simp [exec, execStoreLoadDone, finish, loading]

/-- A slot that is not marked is not enabled at start-up (R58). -/
theorem startUpEnable_unmarked {s : State} {i : Fin 16} (h : (s.slot i).config.enableAtStart = false) :
    s.startUpEnable i = s := by
  unfold startUpEnable
  rw [h]
  rfl

theorem loadConfig_refused {s : State} (h : imageAccepted s.cellBytes = false) :
    s.loadConfig =
      { (s.modSlots fun x => { x with config := SlotConfig.default }) with
        config := LiveConfig.default
        store := { s.store with state := .defaulted } } := by
  simp [loadConfig, h, modSlots]

theorem loadConfig_accepted {s : State} (h : imageAccepted s.cellBytes = true) :
    s.loadConfig =
      { s with
        slots := Vector.ofFn fun i : Fin 16 => { s.slot i with config := imageSlot s.cellBytes i }
        config := imageConfig s.cellBytes
        store := { s.store with state := .valid } } := by
  simp [loadConfig, h]

/-- Nothing is enabled by the default configurations. -/
theorem startUpEnabled_refused {s : State} (h : imageAccepted s.cellBytes = false) :
    s.startUpEnabled =
      { s.loadConfig with roles := ⟨.control, .control, .supervise⟩ } := by
  unfold startUpEnabled
  have roles : forcedRoles s.loadConfig.config.roles = ⟨.control, .control, .supervise⟩ := by
    rw [loadConfig_refused h]
    rfl
  rw [roles]
  refine List.foldlRecOn (motive := fun t => t = _) _ _ rfl fun t ht i _ => ?_
  rw [ht]
  refine startUpEnable_unmarked ?_
  show (s.loadConfig.slot i).config.enableAtStart = false
  rw [loadConfig_refused h]
  simp [slot, modSlots, SlotConfig.default]

end State

theorem startUpWithRefusedImage : Clause.StartUpWithRefusedImage := by
  intro s loading refused
  have enabled := State.startUpEnabled_refused refused
  have linked : s.startUpLinked = s.startUpEnabled := by
    unfold State.startUpLinked
    rw [enabled, State.loadConfig_refused refused]
    rfl
  rw [State.exec_storeLoadDone loading, State.startUp_eq, linked, enabled, State.loadConfig_refused refused]

theorem storeLoadOnlyInLoading : Clause.StoreLoadOnlyInLoading := by
  intro s ready
  simp [exec, execStoreLoadDone, State.finish, ready]

/-! ### The load's judgement -/

theorem twoBits_eq (v : Byte) (k : Nat) : twoBits v k = v.extractLsb' k 2 := by
  apply BitVec.eq_of_getLsbD_eq
  intro i hi
  simp [twoBits, BitVec.getLsbD_extractLsb']

theorem imageAccepted_iff (image : List Byte) :
    imageAccepted image = true ↔
      (image.getD 0 0 = 0x2E ∧ image.getD 1 0 = 0x6D ∧
        crc (image.take 0x3FE) = image.getD 0x3FE 0 ++ image.getD 0x3FF 0 ∧ image.getD 2 0 = 1) ∧
      (∀ x ∈ imageGlobals image, x.1.inRange x.2 = true) ∧
        ∀ i, ∀ x ∈ imageFields image i, x.1.inRange x.2 = true := by
  simp only [imageAccepted, Bool.and_eq_true, decide_eq_true_eq, List.all_eq_true]
  constructor
  · rintro ⟨⟨⟨⟨⟨h0, h1⟩, hcrc⟩, hver⟩, globals⟩, fields⟩
    exact ⟨⟨h0, h1, hcrc, hver⟩, globals, fun i => fields i (List.mem_finRange i)⟩
  · rintro ⟨⟨h0, h1, hcrc, hver⟩, globals, fields⟩
    exact ⟨⟨⟨⟨⟨h0, h1⟩, hcrc⟩, hver⟩, globals⟩, fun i _ => fields i⟩

/-- What the load asks of the settings' cells (R167). -/
theorem globals_inRange_iff {image : List Byte} (h : image.length = 1024) :
    (∀ x ∈ imageGlobals image, x.1.inRange x.2 = true) ↔
      ((1 ≤ (image.getD 0x004 0).toNat ∧ (image.getD 0x004 0).toNat ≤ 128) ∧
        (1 ≤ (image.getD 0x005 0).toNat ∧ (image.getD 0x005 0).toNat ≤ 63) ∧
        (1 ≤ (image.getD 0x006 0).toNat ∧ (image.getD 0x006 0).toNat ≤ 4) ∧
        1 ≤ (image.getD 0x007 0).toNat ∧ (1 ≤ (image.getD 0x008 0).toNat ∧ (image.getD 0x008 0).toNat ≤ 7) ∧
        (1 ≤ (image.getD 0x009 0).toNat ∧ (image.getD 0x009 0).toNat ≤ 15) ∧
        (1 ≤ (image.getD 0x00A 0).toNat ∧ (image.getD 0x00A 0).toNat ≤ 15) ∧
        1 ≤ (image.getD 0x00B 0).toNat ∧ (image.getD 0x00C 0).toNat ≤ 7 ∧
        ((image.getD 0x00D 0).extractLsb' 0 2 ≠ 3 ∧ (image.getD 0x00D 0).extractLsb' 2 2 ≠ 3 ∧
          (image.getD 0x00D 0).extractLsb' 4 2 ≠ 3) ∧
        (image.getD 0x00F 0).toNat ≤ 3) := by
  rw [imageGlobals_eq h]
  simp [Global.inRange, twoBits_eq, and_assoc]

/-- What the load asks of a slot block's cells (R167). -/
theorem fields_inRange_iff {image : List Byte} (h : image.length = 1024) (i : Fin 16) :
    (∀ x ∈ imageFields image i, x.1.inRange x.2 = true) ↔
      ((image.getD (0x040 + 32 * i.val) 0).toNat ≤ 62 ∧ (image.getD (0x044 + 32 * i.val) 0).toNat ≤ 16 ∧
        (image.getD (0x045 + 32 * i.val) 0).toNat ≤ 16 ∧ 1 ≤ (image.getD (0x046 + 32 * i.val) 0).toNat ∧
          (image.getD (0x046 + 32 * i.val) 0).toNat ≤ 8) := by
  rw [imageFields_eq h i rfl, show 0x044 + 32 * i.val = 0x040 + 32 * i.val + 4 by omega,
    show 0x045 + 32 * i.val = 0x040 + 32 * i.val + 5 by omega, show 0x046 + 32 * i.val = 0x040 + 32 * i.val + 6 by omega]
  simp [ConfigField.inRange]
  exact fun _ _ _ _ => Iff.rfl

theorem loadJudgesImage : Clause.LoadJudgesImage := by
  intro s cell wf hcell
  have length := s.cellBytes_length
  have read : ∀ a, a < 1024 → s.cellBytes.getD a 0 = cell a := fun a ha => by rw [State.cellBytes_getD wf ha, hcell]
  have word : (List.range 0x3FE).map (Memory.read s.store.cells) = (List.range 0x3FE).map cell :=
    List.map_congr_left fun a _ => (hcell a).symm
  rw [imageAccepted_iff, globals_inRange_iff length, State.cellBytes_take wf, word]
  simp only [fields_inRange_iff length]
  have blocks : ∀ i : Fin 16, s.cellBytes.getD (0x040 + 32 * i.val) 0 = cell (0x040 + 32 * i.val) ∧
      s.cellBytes.getD (0x044 + 32 * i.val) 0 = cell (0x044 + 32 * i.val) ∧
      s.cellBytes.getD (0x045 + 32 * i.val) 0 = cell (0x045 + 32 * i.val) ∧
      s.cellBytes.getD (0x046 + 32 * i.val) 0 = cell (0x046 + 32 * i.val) := fun i =>
    ⟨read _ (by omega), read _ (by omega), read _ (by omega), read _ (by omega)⟩
  simp only [read, blocks, and_assoc, Nat.reduceLT]

/-- Settles O7. -/
theorem startUpDefaulted : Obligations.StartUpDefaulted :=
  ⟨startUpWithRefusedImage, storeLoadOnlyInLoading, loadJudgesImage⟩

end Sys2Proof.Machine
end

section
/-! SUPPORT. Start-up with an accepted image (R58, R168, R169): O8. -/

namespace Sys2Proof.Machine

/-- A sticky flag that is set stays set when the levels are derived (R155, R157). -/
theorem PortContext.settle_sticky {c : PortContext} {m : Byte} (sticky : m &&& 0xFE = m) (h : c.events &&& m = m) :
    c.settle.events &&& m = m := by
  have bit : ∀ i, m.getLsbD i = true → (c.events &&& 0xFE).getLsbD i = true := fun i hi => by
    have h1 := congrArg (fun x : Byte => x.getLsbD i) h
    have h2 := congrArg (fun x : Byte => x.getLsbD i) sticky
    simp only [BitVec.getLsbD_and, hi, Bool.and_true, Bool.true_and] at h1 h2 ⊢
    rw [h1, h2, Bool.true_and]
  rw [PortContext.settle_eq]
  apply BitVec.eq_of_getLsbD_eq
  intro i _
  rw [BitVec.getLsbD_and, BitVec.getLsbD_or]
  by_cases hi : m.getLsbD i = true
  · rw [bit i hi, hi]
    rfl
  · rw [Bool.eq_false_iff.mpr hi, Bool.and_false]

theorem Byte.and_0x80_iff (x : Byte) : x &&& 0x80 = 0x80 ↔ x.getLsbD 7 = true := by
  constructor
  · intro h
    have := congrArg (fun y : Byte => y.getLsbD 7) h
    simpa using this
  · intro h
    apply BitVec.eq_of_getLsbD_eq
    intro i hi
    have cases : (0x80 : Byte).getLsbD i = true ↔ i = 7 := by
      interval_cases i <;> decide
    rw [BitVec.getLsbD_and]
    by_cases e : i = 7
    · rw [e, h]; rfl
    · rw [Bool.eq_false_iff.mpr (mt cases.mp e), Bool.and_false]

namespace State

/-! ### The slots enabled at start-up -/

/-- Slot `i` is to be enabled at start-up: marked, with a valid address that no slot enabled before it holds (R58). -/
def DueAtStart (t : State) (i : Fin 16) : Prop :=
  (t.slot i).config.enableAtStart = true ∧ 1 ≤ (t.slot i).config.address.toNat ∧
    (t.slot i).config.address.toNat ≤ 62 ∧
      ∀ j, j < i → (t.slot j).health.state = .probing → (t.slot j).config.address ≠ (t.slot i).config.address

/-- The start-up enables have come past the slots in `done`. -/
structure EnabledSoFar (s t : State) (done : List (Fin 16)) : Prop where
  rest : ∃ slots ports, t = { s with slots := slots, ports := ports }
  ports : ∀ p, t.port p = s.port p ∨ t.port p = { s.port p with events := (s.port p).events ||| 0x08 }
  due : ∀ i ∈ done, t.DueAtStart i →
    t.slot i = (s.slot i).enable ∧ ∀ p, (t.port p).events &&& 0x08 = 0x08
  other : ∀ i, ¬(i ∈ done ∧ t.DueAtStart i) → t.slot i = s.slot i

/-- A fold over the slots in order, with what holds once it has come past the first of them. -/
theorem foldl_allSlots {X : List (Fin 16) → State → Prop} (f : State → Fin 16 → State) {s : State} (init : X [] s)
    (step : ∀ done i t, (∀ j, j ∈ done ↔ j < i) → X done t → X (done ++ [i]) (f t i)) :
    X allSlots (allSlots.foldl f s) := by
  have sorted : allSlots.Pairwise (· < ·) := List.pairwise_lt_finRange 16
  have key : ∀ (rest done : List (Fin 16)) (t : State), done ++ rest = allSlots → X done t →
      X allSlots (rest.foldl f t) := by
    intro rest
    induction rest with
    | nil => intro done t e h; rw [List.append_nil] at e; rw [← e]; exact h
    | cons i rest ih =>
      intro done t e h
      rw [List.foldl_cons]
      refine ih (done ++ [i]) _ (by rw [List.append_assoc]; exact e) (step done i t (fun j => ⟨fun hj => ?_, fun hj => ?_⟩) h)
      · rw [← e, List.pairwise_append] at sorted
        exact sorted.2.2 j hj i List.mem_cons_self
      · have mem : j ∈ done ++ i :: rest := e ▸ List.mem_finRange j
        rcases List.mem_append.mp mem with m | m
        · exact m
        · rcases List.mem_cons.mp m with rfl | m
          · exact absurd hj (lt_irrefl _)
          · rw [← e, List.pairwise_append] at sorted
            exact absurd hj (lt_asymm ((List.pairwise_cons.mp sorted.2.1).1 j m))
  exact key allSlots [] s rfl init

theorem EnabledSoFar.config {s t : State} {done : List (Fin 16)} (h : EnabledSoFar s t done) (i : Fin 16) :
    (t.slot i).config = (s.slot i).config ∧ (t.slot i).owner = (s.slot i).owner := by
  by_cases c : i ∈ done ∧ t.DueAtStart i
  · rw [(h.due i c.1 c.2).1]; exact ⟨rfl, rfl⟩
  · rw [h.other i c]; exact ⟨rfl, rfl⟩

/-- Only the slots enabled at start-up are PROBING there; the others are DISABLED. -/
theorem EnabledSoFar.state {s t : State} {done : List (Fin 16)} (off : s.AllDisabled) (h : EnabledSoFar s t done)
    (i : Fin 16) :
    ((t.slot i).health.state = .probing ∧ i ∈ done ∧ t.DueAtStart i) ∨
      ((t.slot i).health.state = .disabled ∧ ¬(i ∈ done ∧ t.DueAtStart i)) := by
  by_cases c : i ∈ done ∧ t.DueAtStart i
  · rw [(h.due i c.1 c.2).1]; exact .inl ⟨rfl, c⟩
  · rw [h.other i c]; exact .inr ⟨off i, c⟩

/-- The enable's own test is R58's, slots before it alone being enabled. -/
theorem startUpEnable_test {s t : State} {done : List (Fin 16)} {i : Fin 16} (off : s.AllDisabled)
    (past : ∀ j, j ∈ done ↔ j < i) (h : EnabledSoFar s t done) :
    ((t.slot i).config.enableAtStart && t.addressValid i && (t.addressHolder i).isNone) = true ↔ t.DueAtStart i := by
  have holder : t.addressHolder i = none ↔
      ∀ j, j < i → (t.slot j).health.state = .probing → (t.slot j).config.address ≠ (t.slot i).config.address := by
    unfold addressHolder
    rw [List.find?_eq_none]
    constructor
    · intro k j hj probing
      have := k j (List.mem_finRange j)
      simpa [ne_of_lt hj, probing] using this
    · intro k j _ held
      simp only [Bool.and_eq_true, decide_eq_true_eq] at held
      obtain ⟨⟨-, on⟩, same⟩ := held
      rcases h.state off j with ⟨probing, mem, -⟩ | ⟨disabled, -⟩
      · exact k j ((past j).mp mem) probing same
      · exact on disabled
  unfold DueAtStart addressValid
  rw [← holder]
  simp only [Bool.and_eq_true, decide_eq_true_eq, Option.isNone_iff_eq_none, and_assoc]
  exact Iff.rfl

/-- A further slot is enabled or not: what is due among those before it stays as it is. -/
theorem dueAtStart_congr {t u : State} {i : Fin 16} (config : ∀ j, (u.slot j).config = (t.slot j).config)
    (before : ∀ j, j < i → u.slot j = t.slot j) : u.DueAtStart i ↔ t.DueAtStart i := by
  unfold DueAtStart
  rw [config i]
  refine and_congr_right fun _ => and_congr_right fun _ => and_congr_right fun _ => ?_
  exact forall_congr' fun j => forall_congr' fun hj => by rw [before j hj]

theorem or_mask_and (x : Byte) : (x ||| 0x08) &&& 0x08 = 0x08 := by
  apply BitVec.eq_of_getLsbD_eq
  intro i hi
  simp only [BitVec.getLsbD_and, BitVec.getLsbD_or]
  cases x.getLsbD i <;> simp

theorem or_mask_or (x : Byte) : (x ||| 0x08) ||| 0x08 = x ||| 0x08 := by
  rw [BitVec.or_assoc, BitVec.or_self]

theorem startUpEnable_step {s t : State} {done : List (Fin 16)} {i : Fin 16} (off : s.AllDisabled)
    (past : ∀ j, j ∈ done ↔ j < i) (h : EnabledSoFar s t done) : EnabledSoFar s (t.startUpEnable i) (done ++ [i]) := by
  have fresh : t.slot i = s.slot i := h.other i fun e => absurd ((past i).mp e.1) (lt_irrefl i)
  have test := startUpEnable_test off past h
  by_cases due : t.DueAtStart i
  · have changed : t.startUpEnable i = t.changeSlot i (·.enable) := by unfold startUpEnable; rw [if_pos (test.mpr due)]
    have slot : ∀ j, (t.startUpEnable i).slot j = if j = i then (s.slot i).enable else t.slot j := fun j => by
      rw [changed, changeSlot_slot_eq, fresh]
    have config : ∀ j, ((t.startUpEnable i).slot j).config = (t.slot j).config := fun j => by
      rw [slot]
      split
      · next e => subst e; rw [fresh]; rfl
      · rfl
    have same : ∀ j, j ≤ i → ((t.startUpEnable i).DueAtStart j ↔ t.DueAtStart j) := fun j hj =>
      dueAtStart_congr config fun k hk => by rw [slot, if_neg (ne_of_lt (lt_of_lt_of_le hk hj))]
    have port : ∀ p, (t.startUpEnable i).port p = { t.port p with events := (t.port p).events ||| 0x08 } := fun p => by
      have left : (t.slot i).enable.health.state ≠ (t.slot i).health.state := by rw [fresh, off i]; exact nofun
      rw [changed, changeSlot_eq, if_neg left, modPorts_port]
      cases p <;> rfl
    refine ⟨?_, fun p => ?_, fun j hj k => ?_, fun j n => ?_⟩
    · obtain ⟨slots, ports, e⟩ := h.rest
      rw [changed, changeSlot_eq]
      exact ⟨_, _, by rw [e]; rfl⟩
    · right
      rw [port]
      rcases h.ports p with e | e <;> rw [e]
      rw [or_mask_or]
    · refine ⟨?_, fun p => by rw [port]; exact or_mask_and _⟩
      rw [slot]
      split
      · next e => rw [e]
      · next ne =>
        have mem : j ∈ done := (List.mem_append.mp hj).resolve_right fun e => ne (List.mem_singleton.mp e)
        exact (h.due j mem ((same j (le_of_lt ((past j).mp mem))).mp k)).1
    · have ne : j ≠ i := fun e => n ⟨by rw [e]; simp, by rw [e]; exact (same i le_rfl).mpr due⟩
      rw [slot, if_neg ne]
      refine h.other j fun e => n ⟨List.mem_append_left _ e.1, (same j (le_of_lt ((past j).mp e.1))).mpr e.2⟩
  · have left : t.startUpEnable i = t := by unfold startUpEnable; rw [if_neg (mt test.mp due)]
    rw [left]
    refine ⟨h.rest, h.ports, fun j hj k => ?_, fun j n => h.other j fun e => n ⟨List.mem_append_left _ e.1, e.2⟩⟩
    refine h.due j ((List.mem_append.mp hj).resolve_right fun e => due ?_) k
    rw [← List.mem_singleton.mp e]
    exact k

theorem enabledSoFar_nil (s : State) : EnabledSoFar s s [] :=
  ⟨⟨_, _, rfl⟩, fun _ => .inl rfl, nofun, fun _ _ => rfl⟩

/-- The part as loaded, the roles in force (R142, R168). -/
def loaded (s : State) : State := { s.loadConfig with roles := forcedRoles s.loadConfig.config.roles }

theorem startUpEnabled_soFar {s : State} (off : s.AllDisabled) : EnabledSoFar s.loaded s.startUpEnabled allSlots := by
  have loadedOff : s.loaded.AllDisabled := fun i => by
    obtain ⟨c, e, -⟩ := s.loadConfig_slot i
    exact (congrArg (fun x : Slot => x.health.state) e).trans (off i)
  exact foldl_allSlots (X := fun done t => EnabledSoFar s.loaded t done) _ (enabledSoFar_nil _)
    fun _ _ _ past h => startUpEnable_step loadedOff past h

theorem forcedRoles_of_some {r : PerPort Role} (h : ∃ p, r.get p = .supervise) : forcedRoles r = r := by
  obtain ⟨p, h⟩ := h
  refine if_pos ?_
  cases p
  · exact .inl h
  · exact .inr (.inl h)
  · exact .inr (.inr h)

theorem forcedRoles_of_none {r : PerPort Role} (h : ∀ p, r.get p ≠ .supervise) :
    forcedRoles r = { r with c := .supervise } := by
  refine if_neg ?_
  rintro (e | e | e)
  · exact h .a e
  · exact h .b e
  · exact h .c e

/-- What the load and the start-up enables give (R58, R142, R168), before the link may start. -/
structure StartUpGives (s u : State) : Prop where
  config : u.config = imageConfig s.cellBytes
  store : u.store = { s.store with state := .valid }
  sched : u.sched = s.sched
  engine : u.engine = s.engine
  handed : u.handed = s.handed
  queue : u.queue = s.queue
  out : u.out = s.out
  capture : u.capture = s.capture
  phase : u.phase = s.phase
  transfer : ∀ p, u.transfer p = s.transfer p
  someRole : (∃ p, (imageConfig s.cellBytes).roles.get p = .supervise) → u.roles = (imageConfig s.cellBytes).roles
  noRole : (∀ p, (imageConfig s.cellBytes).roles.get p ≠ .supervise) →
    u.roles = { (imageConfig s.cellBytes).roles with c := .supervise }
  ports : ∀ p, u.port p = s.port p ∨ u.port p = { s.port p with events := (s.port p).events ||| 0x08 }
  slots : ∀ i, (u.slot i).config = imageSlot s.cellBytes i ∧ (u.slot i).owner = (s.slot i).owner ∧
    ((u.slot i).health.state = .probing ↔ u.DueAtStart i) ∧
    ((u.slot i).health.state = .probing →
      (u.slot i).health = { Health.reset with state := .probing } ∧ (u.slot i).input = InputRecord.reset ∧
        (u.slot i).output = ⟨(u.slot i).config.safeOutput, 0⟩ ∧ ∀ p, (u.port p).events &&& 0x08 = 0x08) ∧
    ((u.slot i).health.state ≠ .probing →
      (u.slot i).health = (s.slot i).health ∧ (u.slot i).input = (s.slot i).input ∧
        (u.slot i).output = (s.slot i).output)

theorem startUpEnabled_gives {s : State} (off : s.AllDisabled) (accepted : imageAccepted s.cellBytes = true) :
    StartUpGives s s.startUpEnabled := by
  have soFar := startUpEnabled_soFar off
  have load := loadConfig_accepted accepted
  have loaded : s.loaded =
      { s with
        slots := Vector.ofFn fun i : Fin 16 => { s.slot i with config := imageSlot s.cellBytes i }
        config := imageConfig s.cellBytes
        store := { s.store with state := .valid }
        roles := forcedRoles (imageConfig s.cellBytes).roles } := by
    unfold State.loaded
    rw [load]
  have slot : ∀ i, s.loaded.slot i = { s.slot i with config := imageSlot s.cellBytes i } := fun i => by
    rw [loaded]
    simp [State.slot]
  have loadedOff : s.loaded.AllDisabled := fun i => by rw [slot]; exact off i
  obtain ⟨slots, ports, e⟩ := soFar.rest
  have port : ∀ p, s.loaded.port p = s.port p := fun p => by rw [loaded]; cases p <;> rfl
  refine ⟨by rw [e, loaded], by rw [e, loaded], by rw [e, loaded], by rw [e, loaded], by rw [e, loaded],
    by rw [e, loaded], by rw [e, loaded], by rw [e, loaded], by rw [e, loaded], fun p => ?_, fun h => ?_, fun h => ?_,
    fun p => ?_, fun i => ?_⟩
  · rw [e, loaded]; cases p <;> rfl
  · rw [e, loaded]; exact forcedRoles_of_some h
  · rw [e, loaded]; exact forcedRoles_of_none h
  · rw [← port]; exact soFar.ports p
  · obtain ⟨config, owner⟩ := soFar.config i
    refine ⟨config.trans (by rw [slot]), owner.trans (by rw [slot]), ?_⟩
    rcases soFar.state loadedOff i with ⟨probing, mem, due⟩ | ⟨disabled, other⟩
    · obtain ⟨enabled, flags⟩ := soFar.due i mem due
      refine ⟨iff_of_true probing due, fun _ => ?_, fun n => absurd probing n⟩
      rw [enabled]
      exact ⟨rfl, rfl, rfl, flags⟩
    · have notProbing : (s.startUpEnabled.slot i).health.state ≠ .probing := by rw [disabled]; decide
      refine ⟨iff_of_false notProbing fun due => other ⟨List.mem_finRange i, due⟩, fun p => absurd p notProbing, fun _ => ?_⟩
      rw [soFar.other i other, slot]
      exact ⟨rfl, rfl, rfl⟩

end State

theorem startUpWithAcceptedImage : Clause.StartUpWithAcceptedImage := by
  intro s loading off accepted noStart
  have gives := State.startUpEnabled_gives off accepted
  have linked : s.startUpLinked = s.startUpEnabled := by
    unfold State.startUpLinked
    rw [gives.config, noStart]
    rfl
  have done := State.exec_storeLoadDone loading
  rw [State.startUp_eq, linked] at done
  generalize s.startUpEnabled = u at done gives
  refine ⟨_, done, rfl, gives.config, gives.store, gives.sched, gives.engine, gives.queue, gives.capture, gives.someRole,
    gives.noRole, fun i => ?_⟩
  obtain ⟨config, owner, due, enabled, other⟩ := gives.slots i
  refine ⟨config, owner, due, fun h => ?_, other⟩
  obtain ⟨health, input, output, flags⟩ := enabled h
  refine ⟨health, input, output, fun p => ?_⟩
  rw [State.settle_port]
  exact PortContext.settle_sticky (m := 0x08) (by decide) (flags p)

/-! ### The link starts -/

namespace State

/-- The first turn of a cycle with no start deferred leaves the scheduler's link, timer and cycle number. -/
theorem nextTurn_sched {s : State} (h : s.sched.deferred = false) :
    ∃ plan acyclic inCycle,
      s.nextTurn.sched = { s.sched with plan := plan, acyclic := acyclic, inCycle := inCycle } := by
  unfold nextTurn turns
  split
  · next t e =>
    rcases s.planTurn_cases s.sched.plan with n | ⟨k, j, rest, -, -, m⟩
    · rw [n] at e; cases e
    · rw [m] at e; cases e
      obtain ⟨engine, handed, hand⟩ := (s.modSched fun c => { c with plan := rest }).hand_frame k j
      rw [hand]
      exact ⟨rest, _, _, rfl⟩
  · split
    · next t e =>
      obtain ⟨r, rest, -, rfl⟩ := acyclicTurn_eq e
      obtain ⟨engine, handed, hand⟩ := (s.headOut r rest fun c => { c with plan := [], acyclic := c.acyclic + 1 }).hand_frame
        r.kind.kind r.slot
      rw [hand]
      exact ⟨[], _, _, rfl⟩
    · have sched : s.endCycle.sched = { s.sched with inCycle := false, plan := [] } := by
        unfold endCycle
        dsimp only
        rw [modSched_sched, changeSlots_eq]
        rfl
      dsimp only
      rw [if_neg (by rw [sched]; simpa using h), sched]
      exact ⟨[], _, false, rfl⟩

theorem beginCycle_sched (s : State) :
    ∃ plan, s.beginCycle.sched =
      { s.sched with
        cycle := s.sched.cycle + 1, plan := plan, acyclic := 0
        allowance := s.beginCycle.sched.allowance, inCycle := true } := by
  have timed : ((s.modSched fun c => { c with cycle := c.cycle + 1 }).timerCapture).sched =
      { s.sched with cycle := s.sched.cycle + 1 } := by
    unfold timerCapture
    split
    · rw [(takeCapture_frame _ _).2.1]; rfl
    · rfl
  refine ⟨((s.modSched fun c => { c with cycle := c.cycle + 1 }).timerCapture).newPlan, ?_⟩
  unfold beginCycle
  dsimp only
  rw [modSched_sched, timed]

/-- A cycle starts with no start deferred: the link and the timer stay, one cycle more is counted. -/
theorem startCycle_sched {s : State} (h : s.sched.deferred = false) :
    s.startCycle.sched.link = s.sched.link ∧ s.startCycle.sched.timer = s.sched.timer ∧
      s.startCycle.sched.cycle = s.sched.cycle + 1 := by
  obtain ⟨plan, begun⟩ := s.beginCycle_sched
  obtain ⟨plan', acyclic, inCycle, e⟩ := nextTurn_sched (s := s.beginCycle) (by rw [begun]; exact h)
  unfold startCycle
  rw [e, begun]
  exact ⟨rfl, rfl, rfl⟩

/-! ### Flags that stand -/

/-- LINK_CHANGE is set in every port. -/
def LinkChanged (s : State) : Prop := ∀ p, (s.port p).events.getLsbD 7 = true

theorem linkChanged_of_events {s t : State} (h : ∀ p, ∃ b, (t.port p).events = (s.port p).events ||| b)
    (hs : s.LinkChanged) : t.LinkChanged := fun p => by
  obtain ⟨b, e⟩ := h p
  rw [e, BitVec.getLsbD_or, hs p, Bool.true_or]

theorem linkChanged_of_ports {s t : State} (h : t.ports = s.ports) (hs : s.LinkChanged) : t.LinkChanged := fun p => by
  rw [port_def, h, ← port_def]
  exact hs p

theorem takeCapture_linkChanged {s : State} (x : Source) (hs : s.LinkChanged) : (s.takeCapture x).LinkChanged := by
  rcases s.takeCapture_cases x with ⟨-, e⟩ | ⟨-, -, e⟩ | ⟨-, -, e⟩
  · rw [e]; exact hs
  · rw [e]
    refine linkChanged_of_events (fun p => ?_) hs
    have port : (s.captureLostOnce.port p).events =
        if (s.port p).cursor = none then (s.port p).events else (s.port p).events ||| 0x02 := by cases p <;> rfl
    rw [port]
    split
    · exact ⟨0, by simp⟩
    · exact ⟨_, rfl⟩
  · rw [e]
    intro p
    have port : ((s.captureRecordedOnce x).port p).events = (s.port p).events := by cases p <;> rfl
    rw [port]
    exact hs p

theorem hand_linkChanged {s : State} (k : Kind) (i : Fin 16) (hs : s.LinkChanged) : (s.hand k i).LinkChanged := by
  obtain ⟨engine, handed, e⟩ := s.hand_frame k i
  rw [e]
  exact hs

theorem planTurn_linkChanged {s t : State} (hs : s.LinkChanged) (e : s.planTurn s.sched.plan = some t) :
    t.LinkChanged := by
  rcases s.planTurn_cases s.sched.plan with n | ⟨k, j, rest, -, -, m⟩
  · rw [n] at e; cases e
  · rw [m] at e; cases e
    exact hand_linkChanged k j (linkChanged_of_ports (modSched_ports _ _) hs)

theorem acyclicTurn_linkChanged {s t : State} (hs : s.LinkChanged) (e : s.acyclicTurn = some t) : t.LinkChanged := by
  obtain ⟨r, rest, -, rfl⟩ := acyclicTurn_eq e
  refine hand_linkChanged _ _ fun p => ?_
  have events : ∀ f, ((s.headOut r rest f).port p).events = (s.port p).events := fun f => by
    unfold headOut modWindow
    rw [modPort_port]
    split
    · next e => rw [e]; rfl
    · rfl
  rw [events]
  exact hs p

theorem endCycle_linkChanged {s : State} (hs : s.LinkChanged) : s.endCycle.LinkChanged := by
  have changed : (s.changeSlots (·.cycleEnd s.config.staleLimit)).LinkChanged := by
    refine linkChanged_of_events (s := s) (fun p => ?_) hs
    rw [changeSlots_eq, modPorts_port]
    exact ⟨_, rfl⟩
  unfold endCycle
  generalize s.changeSlots (·.cycleEnd s.config.staleLimit) = t at changed
  exact changed

theorem beginCycle_linkChanged {s : State} (hs : s.LinkChanged) : s.beginCycle.LinkChanged := by
  have counted : (s.modSched fun c => { c with cycle := c.cycle + 1 }).LinkChanged := hs
  have timed : (s.modSched fun c => { c with cycle := c.cycle + 1 }).timerCapture.LinkChanged := by
    unfold timerCapture
    split
    · exact takeCapture_linkChanged _ counted
    · exact counted
  unfold beginCycle
  exact timed

theorem startCycle_linkChanged {s : State} (hs : s.LinkChanged) : s.startCycle.LinkChanged :=
  turns_keeps (X := LinkChanged) (Z := LinkChanged) (fun _ _ => planTurn_linkChanged) (fun _ _ => acyclicTurn_linkChanged)
    (fun _ => endCycle_linkChanged) (fun s hs => beginCycle_linkChanged (s := s.modSched _) hs) (fun _ => id) (fun _ => id) 2
    (beginCycle_linkChanged hs)

theorem startLink_eq (s : State) : s.startLink = s.linkRunning.startCycle := rfl

theorem linkRunning_linkChanged (s : State) : s.linkRunning.LinkChanged := fun p => by
  have port : (s.linkRunning.port p).events = (s.port p).events ||| 0x80 := by cases p <;> rfl
  rw [port, BitVec.getLsbD_or]
  exact Bool.or_true _

/-- The link enters RUNNING and a cycle starts (R21, R27, R34). -/
theorem linkRunning_startCycle {u : State} (h : u.sched.deferred = false) :
    u.linkRunning.startCycle.sched.link = .running ∧
      u.linkRunning.startCycle.sched.timer = some (125 * u.config.period.toNat) ∧
      u.linkRunning.startCycle.sched.cycle = u.sched.cycle + 1 ∧ u.linkRunning.startCycle.LinkChanged := by
  obtain ⟨link, timer, cycle⟩ := startCycle_sched (s := u.linkRunning) h
  exact ⟨link, timer, cycle, startCycle_linkChanged u.linkRunning_linkChanged⟩

end State

theorem autoStartStartsLink : Clause.AutoStartStartsLink := by
  intro s loading notDeferred accepted start
  have kept : s.startUpEnabled.config = imageConfig s.cellBytes ∧ s.startUpEnabled.sched = s.sched := by
    refine State.startUpEnabled_keeps (X := fun t => t.config = imageConfig s.cellBytes ∧ t.sched = s.sched) ?_
      fun t i _ h => ?_
    · rw [State.loadConfig_accepted accepted]; exact ⟨rfl, rfl⟩
    · rw [State.changeSlot_eq]; exact h
  obtain ⟨config, sched⟩ := kept
  have linked : s.startUpLinked = s.startUpEnabled.linkRunning.startCycle := by
    unfold State.startUpLinked
    rw [config, start, if_pos rfl, State.startLink_eq]
  obtain ⟨link, timer, cycle, changed⟩ := State.linkRunning_startCycle (u := s.startUpEnabled) (by rw [sched]; exact notDeferred)
  rw [config] at timer
  rw [sched] at cycle
  have done := State.exec_storeLoadDone loading
  rw [State.startUp_eq, linked] at done
  generalize s.startUpEnabled.linkRunning.startCycle = u at done changed link timer cycle
  refine ⟨_, done, rfl, link, timer, cycle, fun p => ?_⟩
  rw [State.settle_port]
  exact PortContext.settle_sticky (m := 0x80) (by decide) ((Byte.and_0x80_iff _).mpr (changed p))

theorem autoStartLoadsConfiguration : Clause.AutoStartLoadsConfiguration := by
  intro s loading off accepted start
  have gives := State.startUpEnabled_gives off accepted
  have linked : s.startUpLinked = s.startUpEnabled.linkRunning.startCycle := by
    unfold State.startUpLinked
    rw [gives.config, start, if_pos rfl, State.startLink_eq]
  have done := State.exec_storeLoadDone loading
  rw [State.startUp_eq, linked] at done
  generalize s.startUpEnabled = u at done gives
  exact ⟨u, u.linkRunning.startCycle, done, (State.cycleStarts_iff _ _).mpr rfl, gives.config, gives.store, gives.sched,
    gives.engine, gives.handed, gives.queue, gives.out, gives.capture, gives.phase, gives.transfer, gives.someRole,
    gives.noRole, gives.ports, gives.slots⟩

/-- Settles O8: the load takes the image whole, the enables go slot by slot, and auto-start starts the link after them. -/
theorem startUpValid : Obligations.StartUpValid :=
  ⟨startUpWithAcceptedImage, autoStartStartsLink, autoStartLoadsConfiguration⟩

end Sys2Proof.Machine
end

section
/-! SUPPORT. The save image and the load of it, field by field (R164, R168, R171): O9. -/

namespace Sys2Proof.Machine

/-! ### The bytes of a field -/

theorem Half.low_ofBytes (h l : Byte) : Half.low (Half.ofBytes h l) = l := by
  apply BitVec.eq_of_getLsbD_eq
  intro i hi
  show ((h ++ l).setWidth 8).getLsbD i = l.getLsbD i
  rw [BitVec.getLsbD_setWidth, BitVec.getLsbD_append]
  simp [hi]

theorem Half.ofBytes_high_low (x : Half) : Half.ofBytes (Half.high x) (Half.low x) = x := by
  apply BitVec.eq_of_getLsbD_eq
  intro i hi
  simp only [Half.ofBytes, Half.high, Half.low, BitVec.getLsbD_append, BitVec.getLsbD_setWidth,
    BitVec.getLsbD_ushiftRight]
  split
  · next h => simp [h]
  · next h =>
    have : i - 8 < 8 := by omega
    have : 8 + (i - 8) = i := by omega
    simp [*]

theorem half_low_eq (x : Half) : Half.low x = x.extractLsb' 0 8 := by
  apply BitVec.eq_of_getLsbD_eq
  intro i hi
  simp [Half.low, hi]

theorem half_high_eq (x : Half) : Half.high x = x.extractLsb' 8 8 := by
  apply BitVec.eq_of_getLsbD_eq
  intro i hi
  simp [Half.high, hi]

theorem setHigh_setLow (x : Half) (l h : Byte) : setHigh (setLow x l) h = Half.ofBytes h l :=
  congrArg (Half.ofBytes h) (Half.low_ofBytes _ l)

/-- The rate's byte: auto-start in bit 7, the rate's code in bits 0 and 1 (11.3.4). -/
theorem rateByte_eq (rate : BitVec 2) (auto : Bool) :
    (rate.setWidth 8 ||| Byte.bit auto 7 : Byte) = BitVec.ofBool auto ++ (0 : BitVec 5) ++ rate := by
  revert rate auto
  decide

theorem rateByte_fields (rate : BitVec 2) (auto : Bool) :
    twoBits (rate.setWidth 8 ||| Byte.bit auto 7) 0 = rate ∧
      (rate.setWidth 8 ||| Byte.bit auto 7 : Byte).getLsbD 7 = auto := by
  revert rate auto
  decide

/-- The roles' byte (11.3.4). -/
theorem rolesByte_fields (x y z : Role) :
    Role.ofCode (twoBits (x.code.setWidth 8 ||| (y.code.setWidth 8 <<< 2) ||| (z.code.setWidth 8 <<< 4)) 0) = x ∧
      Role.ofCode (twoBits (x.code.setWidth 8 ||| (y.code.setWidth 8 <<< 2) ||| (z.code.setWidth 8 <<< 4)) 2) = y ∧
      Role.ofCode (twoBits (x.code.setWidth 8 ||| (y.code.setWidth 8 <<< 2) ||| (z.code.setWidth 8 <<< 4)) 4) = z := by
  cases x <;> cases y <;> cases z <;> decide

theorem rolesByte_eq (x y z : BitVec 2) :
    (x.setWidth 8 ||| (y.setWidth 8 <<< 2) ||| (z.setWidth 8 <<< 4) : Byte) = (0 : BitVec 2) ++ z ++ y ++ x := by
  revert x y z
  decide

theorem linkstatByte_eq (health invert fault : Bool) :
    (Byte.bit health 0 ||| Byte.bit invert 1 ||| Byte.bit fault 2 : Byte) =
      (0 : BitVec 5) ++ BitVec.ofBool fault ++ BitVec.ofBool invert ++ BitVec.ofBool health := by
  revert health invert fault
  decide

theorem linkstatByte_fields (health invert fault : Bool) :
    (Byte.bit health 0 ||| Byte.bit invert 1 ||| Byte.bit fault 2 : Byte).getLsbD 0 = health ∧
      (Byte.bit health 0 ||| Byte.bit invert 1 ||| Byte.bit fault 2 : Byte).getLsbD 1 = invert ∧
      (Byte.bit health 0 ||| Byte.bit invert 1 ||| Byte.bit fault 2 : Byte).getLsbD 2 = fault := by
  revert health invert fault
  decide

theorem optionsByte_eq (e l s r : Bool) :
    (Byte.bit e 0 ||| Byte.bit l 1 ||| Byte.bit s 2 ||| Byte.bit r 3 : Byte) =
      (0 : BitVec 4) ++ BitVec.ofBool r ++ BitVec.ofBool s ++ BitVec.ofBool l ++ BitVec.ofBool e := by
  revert e l s r
  decide

theorem optionsByte_fields (e l s r : Bool) :
    (Byte.bit e 0 ||| Byte.bit l 1 ||| Byte.bit s 2 ||| Byte.bit r 3 : Byte).getLsbD 0 = e ∧
      (Byte.bit e 0 ||| Byte.bit l 1 ||| Byte.bit s 2 ||| Byte.bit r 3 : Byte).getLsbD 1 = l ∧
      (Byte.bit e 0 ||| Byte.bit l 1 ||| Byte.bit s 2 ||| Byte.bit r 3 : Byte).getLsbD 2 = s ∧
      (Byte.bit e 0 ||| Byte.bit l 1 ||| Byte.bit s 2 ||| Byte.bit r 3 : Byte).getLsbD 3 = r := by
  revert e l s r
  decide

theorem PinEdge.ofCode_code (e : PinEdge) : PinEdge.ofCode e.code = e := by cases e <;> rfl

/-- A code in range names the edge whose code it is. -/
theorem PinEdge.code_ofCode {v : Byte} (h : v.toNat ≤ 3) : (PinEdge.ofCode v).code = v := by
  have : v = 0 ∨ v = 1 ∨ v = 2 ∨ v = 3 := by bv_omega
  rcases this with rfl | rfl | rfl | rfl <;> rfl

theorem PinEdge.code_eq (e : PinEdge) :
    e.code = match e with | .off => 0 | .rising => 1 | .falling => 2 | .both => 3 := by cases e <;> rfl

/-- A code but 3 names the role whose code it is. -/
theorem Role.code_ofCode {c : BitVec 2} (h : c ≠ 3) : (Role.ofCode c).code = c := by
  revert c
  decide

theorem Role.code_eq {code : Role → BitVec 2} (control : code .control = 0) (observe : code .observe = 1)
    (supervise : code .supervise = 2) (r : Role) : code r = r.code := by
  cases r
  · exact control
  · exact observe
  · exact supervise

/-! ### The configuration that an image gives -/

/-- The settings that an image gives, field by field (R168). -/
theorem imageConfig_eq {image : List Byte} (h : image.length = 1024) :
    imageConfig image =
      { bitRate := twoBits (image.getD 0x003 0) 0
        autoStart := (image.getD 0x003 0).getLsbD 7
        period := image.getD 0x004 0
        timeout := image.getD 0x005 0
        allowance := image.getD 0x006 0
        staleLimit := image.getD 0x007 0
        suspectLimit := image.getD 0x008 0
        firstQuick := image.getD 0x009 0
        rejoinQuick := image.getD 0x00A 0
        backoffCode := image.getD 0x00B 0
        lockoutRounds := image.getD 0x00C 0
        roles := ⟨.ofCode (twoBits (image.getD 0x00D 0) 0), .ofCode (twoBits (image.getD 0x00D 0) 2),
          .ofCode (twoBits (image.getD 0x00D 0) 4)⟩
        linkstatHealth := (image.getD 0x00E 0).getLsbD 0
        linkstatInvert := (image.getD 0x00E 0).getLsbD 1
        linkstatFault := (image.getD 0x00E 0).getLsbD 2
        pinEdge := .ofCode (image.getD 0x00F 0)
        timerDivider := image.getD 0x010 0
        captureSet := Half.ofBytes (image.getD 0x012 0) (image.getD 0x011 0)
        eventSet := Half.ofBytes (image.getD 0x014 0) (image.getD 0x013 0) } := by
  unfold imageConfig
  rw [imageGlobals_eq h]
  simp only [List.foldl_cons, List.foldl_nil, LiveConfig.put, setHigh_setLow]

/-- The safe output bytes that are put one after the other. -/
theorem foldl_put_safe (f : Fin 16 → Byte) (c : SlotConfig) :
    ((List.finRange 16).map fun k => (ConfigField.safe k, f k)).foldl (fun c x => c.put x.1 x.2) c =
      { c with safeOutput := Vector.ofFn f } := by
  have key : ∀ (l : List (Fin 16)) (c : SlotConfig),
      ∃ v, (l.map fun k => (ConfigField.safe k, f k)).foldl (fun c x => c.put x.1 x.2) c = { c with safeOutput := v } ∧
        ∀ k : Fin 16, v[k] = if k ∈ l then f k else c.safeOutput[k] := by
    intro l
    induction l with
    | nil => exact fun c => ⟨c.safeOutput, rfl, fun k => by simp⟩
    | cons j rest ih =>
      intro c
      obtain ⟨v, e, bytes⟩ := ih (c.put (.safe j) (f j))
      refine ⟨v, e, fun k => ?_⟩
      rw [bytes]
      by_cases hk : k ∈ rest
      · rw [if_pos hk, if_pos (List.mem_cons_of_mem _ hk)]
      · rw [if_neg hk]
        by_cases e : k = j
        · subst e
          simp [SlotConfig.put, setByte]
        · have ne : j.val ≠ k.val := fun h => e (Fin.ext h.symm)
          simp [SlotConfig.put, setByte, hk, e, ne]
  obtain ⟨v, e, bytes⟩ := key (List.finRange 16) c
  rw [e]
  congr 1
  apply Vector.ext
  intro k hk
  have := bytes ⟨k, hk⟩
  rw [if_pos (List.mem_finRange _)] at this
  simpa using this

/-- A slot's configuration that an image gives, field by field (R168). -/
theorem imageSlot_eq {image : List Byte} (h : image.length = 1024) (i : Fin 16) {b : Nat}
    (hb : b = 0x040 + 32 * i.val) :
    imageSlot image i =
      { address := image.getD b 0
        enableAtStart := (image.getD (b + 1) 0).getLsbD 0
        errLatch := (image.getD (b + 1) 0).getLsbD 1
        errSafe := (image.getD (b + 1) 0).getLsbD 2
        releaseSafe := (image.getD (b + 1) 0).getLsbD 3
        expectedClass := Half.ofBytes (image.getD (b + 3) 0) (image.getD (b + 2) 0)
        inputLength := image.getD (b + 4) 0
        outputLength := image.getD (b + 5) 0
        pollDivider := image.getD (b + 6) 0
        safeOutput := Vector.ofFn fun k : Fin 16 => image.getD (b + 8 + k.val) 0 } := by
  unfold imageSlot
  rw [imageFields_eq h i hb, List.foldl_append, foldl_put_safe]
  simp only [List.foldl_cons, List.foldl_nil, SlotConfig.put, setHigh_setLow]

/-! ### The image of the live configuration -/

namespace State

theorem saveImage_getD {s : State} {a : Nat} {v : Byte} (h : s.saveImage[a]? = some v) : s.saveImage.getD a 0 = v := by
  rw [List.getD_eq_getElem?_getD, h]
  rfl

/-- The cell of a setting (11.5). -/
theorem saveImage_global (s : State) {k : Nat} {g : Global} (h : Global.all[k]? = some g) :
    s.saveImage[3 + k]? = some (s.config.byte g) := by
  have hk : k < 18 := by
    have := (List.getElem?_eq_some_iff.mp h).1
    simpa [Global.all] using this
  rw [saveImage_head s (by omega), List.getElem?_append_right (by simp)]
  simp [h]

/-- The cell of a field of a slot block (11.5). -/
theorem saveImage_field (s : State) (i : Fin 16) {off : Nat} {f : ConfigField} (h : ConfigField.at off = some f)
    (size : off < 32) : s.saveImage[0x040 + 32 * i.val + off]? = some ((s.slot i).config.byte f) := by
  rw [saveImage_block s i size]
  simp [SlotConfig.block, size, h]

/-- The cells of a slot block that hold no field (11.5). -/
theorem saveImage_unused (s : State) (i : Fin 16) {off : Nat} (h : ConfigField.at off = none) (size : off < 32) :
    s.saveImage[0x040 + 32 * i.val + off]? = some 0 := by
  rw [saveImage_block s i size]
  simp [SlotConfig.block, size, h]

theorem configField_at_safe (k : Fin 16) : ConfigField.at (8 + k.val) = some (.safe k) := by
  revert k
  decide

theorem configField_at_end {off : Nat} (h1 : 0x18 ≤ off) (h2 : off ≤ 0x1F) : ConfigField.at off = none := by
  interval_cases off <;> rfl

theorem imageConfig_saveImage (s : State) : imageConfig s.saveImage = s.config := by
  have cell : ∀ k g, Global.all[k]? = some g → s.saveImage.getD (3 + k) 0 = s.config.byte g := fun k g h =>
    saveImage_getD (s.saveImage_global h)
  obtain ⟨rate, auto⟩ := rateByte_fields s.config.bitRate s.config.autoStart
  obtain ⟨a, b, c⟩ := rolesByte_fields s.config.roles.a s.config.roles.b s.config.roles.c
  obtain ⟨health, invert, fault⟩ :=
    linkstatByte_fields s.config.linkstatHealth s.config.linkstatInvert s.config.linkstatFault
  rw [imageConfig_eq s.saveImage_length, cell 0 .bitRate rfl, cell 1 .period rfl, cell 2 .timeout rfl,
    cell 3 .allowance rfl, cell 4 .staleLimit rfl, cell 5 .suspectLimit rfl, cell 6 .firstQuick rfl,
    cell 7 .rejoinQuick rfl, cell 8 .backoff rfl, cell 9 .lockout rfl, cell 10 .roles rfl, cell 11 .linkstat rfl,
    cell 12 .pinEdge rfl, cell 13 .timerDivider rfl, cell 14 .captureLow rfl, cell 15 .captureHigh rfl,
    cell 16 .eventLow rfl, cell 17 .eventHigh rfl]
  simp only [LiveConfig.byte, rate, auto, a, b, c, health, invert, fault, PinEdge.ofCode_code, Half.ofBytes_high_low]

theorem imageSlot_saveImage (s : State) (i : Fin 16) : imageSlot s.saveImage i = (s.slot i).config := by
  have cell : ∀ off f, ConfigField.at off = some f → off < 32 →
      s.saveImage.getD (0x040 + 32 * i.val + off) 0 = (s.slot i).config.byte f := fun off f h size =>
    saveImage_getD (s.saveImage_field i h size)
  have safe : ∀ k : Fin 16, s.saveImage.getD (0x040 + 32 * i.val + 8 + k.val) 0 = (s.slot i).config.safeOutput[k] :=
    fun k => by rw [Nat.add_assoc]; exact cell (8 + k.val) (.safe k) (configField_at_safe k) (by omega)
  obtain ⟨enable, latch, errSafe, release⟩ := optionsByte_fields (s.slot i).config.enableAtStart
    (s.slot i).config.errLatch (s.slot i).config.errSafe (s.slot i).config.releaseSafe
  rw [imageSlot_eq s.saveImage_length i rfl, show 0x040 + 32 * i.val = 0x040 + 32 * i.val + 0 from rfl,
    cell 0 .address rfl (by decide), cell 1 .options rfl (by decide), cell 2 .classLow rfl (by decide),
    cell 3 .classHigh rfl (by decide), cell 4 .inputLength rfl (by decide), cell 5 .outputLength rfl (by decide),
    cell 6 .pollDivider rfl (by decide)]
  simp only [SlotConfig.byte, enable, latch, errSafe, release, Half.ofBytes_high_low, safe]
  congr 1
  apply Vector.ext
  intro k hk
  simp

end State

namespace State

/-- The bytes that the load judges are those of the configuration that the image was built from. -/
theorem mem_imageGlobals_saveImage {s : State} {x : Global × Byte} (h : x ∈ imageGlobals s.saveImage) :
    x.2 = s.config.byte x.1 := by
  obtain ⟨k, hk⟩ := List.mem_iff_getElem?.mp h
  obtain ⟨global, byte⟩ := List.getElem?_zip_eq_some.mp hk
  rw [List.getElem?_drop, s.saveImage_global global] at byte
  exact (Option.some.inj byte).symm

theorem mem_imageFields_saveImage {s : State} {i : Fin 16} {x : ConfigField × Byte}
    (h : x ∈ imageFields s.saveImage i) : x.2 = (s.slot i).config.byte x.1 := by
  obtain ⟨⟨v, off⟩, mem, field⟩ := List.mem_filterMap.mp h
  have byte := List.mem_zipIdx_iff_getElem?.mp mem
  rw [List.getElem?_take] at byte
  split at byte
  · next size =>
    dsimp only at field
    split at field
    · next f hf =>
      cases field
      rw [List.getElem?_drop] at byte
      have cell := s.saveImage_field i hf (by omega)
      exact (Option.some.inj (cell.symm.trans byte)).symm
    · cases field
  · cases byte

/-- The two cells after the body hold its CRC, high byte first (R164). -/
theorem saveImage_crc (s : State) :
    s.saveImage[0x3FE]? = some (crc s.imageBody).high ∧ s.saveImage[0x3FF]? = some (crc s.imageBody).low := by
  have length := s.imageBody_length
  unfold saveImage
  constructor <;> rw [List.getElem?_append_right (by omega), length] <;> rfl

end State

theorem savedImageIsAccepted : Clause.SavedImageIsAccepted := by
  intro s hs
  refine ⟨?_, s.imageConfig_saveImage, s.imageSlot_saveImage⟩
  obtain ⟨high, low⟩ := s.saveImage_crc
  have head : ∀ a v, ([Config.validation0, Config.validation1, 1] : List Byte)[a]? = some v →
      s.saveImage.getD a 0 = v := fun a v h => by
    have size : a < 3 := (List.getElem?_eq_some_iff.mp h).1
    refine State.saveImage_getD ?_
    rw [State.saveImage_head s (by omega), List.getElem?_append_left size]
    exact h
  refine (imageAccepted_iff _).mpr ⟨⟨head 0 _ rfl, head 1 _ rfl, ?_, head 2 _ rfl⟩, fun x hx => ?_, fun i x hx => ?_⟩
  · rw [State.saveImage_take, State.saveImage_getD high, State.saveImage_getD low]
    exact (Half.ofBytes_high_low _).symm
  · rw [State.mem_imageGlobals_saveImage hx]
    exact hs.1 x.1
  · rw [State.mem_imageFields_saveImage hx]
    exact hs.2 i x.1

theorem loadedFieldsFromCells : Clause.LoadedFieldsFromCells := by
  intro s cell code wf hcell control observe supervise accepted
  have length := s.cellBytes_length
  have read : ∀ a, a < 1024 → s.cellBytes.getD a 0 = cell a := fun a ha => by rw [State.cellBytes_getD wf ha, hcell]
  have code_eq := Role.code_eq control observe supervise
  obtain ⟨-, -, -, -, -, -, -, -, -, ⟨roleA, roleB, roleC⟩, edge⟩ :=
    (globals_inRange_iff length).mp (imageAccepted_ranges accepted).1
  rw [read _ (by decide)] at roleA roleB roleC edge
  refine ⟨⟨.ofCode ((cell 0x00D).extractLsb' 0 2), .ofCode ((cell 0x00D).extractLsb' 2 2),
    .ofCode ((cell 0x00D).extractLsb' 4 2), .ofCode (cell 0x00F), ?_, ?_, ?_, ?_, ?_⟩, fun i b hb => ?_⟩
  · rw [code_eq]; exact Role.code_ofCode roleA
  · rw [code_eq]; exact Role.code_ofCode roleB
  · rw [code_eq]; exact Role.code_ofCode roleC
  · exact (PinEdge.code_ofCode edge).symm.trans (PinEdge.code_eq _)
  · rw [imageConfig_eq length]
    simp only [read, Nat.reduceLT, twoBits_eq]
    rfl
  · have inside : b + 32 ≤ 1024 := by omega
    rw [imageSlot_eq length i hb, read b (by omega), read (b + 1) (by omega), read (b + 2) (by omega),
      read (b + 3) (by omega), read (b + 4) (by omega), read (b + 5) (by omega), read (b + 6) (by omega)]
    congr 2
    funext k
    exact read _ (by omega)

/-- The cells of a slot block (11.5). -/
theorem savedField_at (s : State) (i : Fin 16) {off : Nat} {v : Byte}
    (field : (off = 0x00 ∧ v = (s.slot i).config.address) ∨
      (off = 0x01 ∧ v = (0 : BitVec 4) ++ BitVec.ofBool (s.slot i).config.releaseSafe ++
        BitVec.ofBool (s.slot i).config.errSafe ++ BitVec.ofBool (s.slot i).config.errLatch ++
        BitVec.ofBool (s.slot i).config.enableAtStart) ∨
      (off = 0x02 ∧ v = (s.slot i).config.expectedClass.extractLsb' 0 8) ∨
      (off = 0x03 ∧ v = (s.slot i).config.expectedClass.extractLsb' 8 8) ∨
      (off = 0x04 ∧ v = (s.slot i).config.inputLength) ∨ (off = 0x05 ∧ v = (s.slot i).config.outputLength) ∨
      (off = 0x06 ∧ v = (s.slot i).config.pollDivider) ∨ (off = 0x07 ∧ v = 0) ∨
      (∃ k : Fin 16, off = 0x08 + k.val ∧ v = (s.slot i).config.safeOutput[k]) ∨
      (0x18 ≤ off ∧ off ≤ 0x1F ∧ v = 0)) : s.saveImage[0x040 + 32 * i.val + off]? = some v := by
  rcases field with ⟨rfl, rfl⟩ | ⟨rfl, rfl⟩ | ⟨rfl, rfl⟩ | ⟨rfl, rfl⟩ | ⟨rfl, rfl⟩ | ⟨rfl, rfl⟩ | ⟨rfl, rfl⟩ |
    ⟨rfl, rfl⟩ | ⟨k, rfl, rfl⟩ | ⟨h1, h2, rfl⟩
  · exact s.saveImage_field i (f := .address) rfl (by decide)
  · exact (s.saveImage_field i (f := .options) rfl (by decide)).trans (congrArg some (optionsByte_eq _ _ _ _))
  · exact (s.saveImage_field i (f := .classLow) rfl (by decide)).trans (congrArg some (half_low_eq _))
  · exact (s.saveImage_field i (f := .classHigh) rfl (by decide)).trans (congrArg some (half_high_eq _))
  · exact s.saveImage_field i (f := .inputLength) rfl (by decide)
  · exact s.saveImage_field i (f := .outputLength) rfl (by decide)
  · exact s.saveImage_field i (f := .pollDivider) rfl (by decide)
  · exact s.saveImage_unused i rfl (by decide)
  · exact s.saveImage_field i (State.configField_at_safe k) (by omega)
  · exact s.saveImage_unused i (State.configField_at_end h1 h2) (by omega)

theorem savedImageAtCells : Clause.SavedImageAtCells := by
  intro s x code a v hx control observe supervise h
  refine ⟨s.saveImage_length, ?_⟩
  subst hx
  have code_eq := Role.code_eq control observe supervise
  obtain ⟨high, low⟩ := s.saveImage_crc
  rcases h with ⟨rfl, rfl⟩ | ⟨rfl, rfl⟩ | ⟨rfl, rfl⟩ | ⟨rfl, rfl⟩ | ⟨rfl, rfl⟩ | ⟨rfl, rfl⟩ | ⟨rfl, rfl⟩ | ⟨rfl, rfl⟩ |
    ⟨rfl, rfl⟩ | ⟨rfl, rfl⟩ | ⟨rfl, rfl⟩ | ⟨rfl, rfl⟩ | ⟨rfl, rfl⟩ | ⟨rfl, rfl⟩ | ⟨rfl, rfl⟩ | ⟨rfl, rfl⟩ | ⟨rfl, rfl⟩ |
    ⟨rfl, rfl⟩ | ⟨rfl, rfl⟩ | ⟨rfl, rfl⟩ | ⟨rfl, rfl⟩ | ⟨h1, h2, rfl⟩ | ⟨i, y, off, rfl, rfl, field⟩ | ⟨h1, h2, rfl⟩ |
    ⟨rfl, rfl⟩ | ⟨rfl, rfl⟩
  · exact s.saveImage_head (by decide)
  · exact s.saveImage_head (by decide)
  · exact s.saveImage_head (by decide)
  · exact (s.saveImage_global (k := 0) rfl).trans (congrArg some (rateByte_eq _ _))
  · exact s.saveImage_global (k := 1) rfl
  · exact s.saveImage_global (k := 2) rfl
  · exact s.saveImage_global (k := 3) rfl
  · exact s.saveImage_global (k := 4) rfl
  · exact s.saveImage_global (k := 5) rfl
  · exact s.saveImage_global (k := 6) rfl
  · exact s.saveImage_global (k := 7) rfl
  · exact s.saveImage_global (k := 8) rfl
  · exact s.saveImage_global (k := 9) rfl
  · simp only [code_eq]
    exact (s.saveImage_global (k := 10) rfl).trans (congrArg some (rolesByte_eq _ _ _))
  · exact (s.saveImage_global (k := 11) rfl).trans (congrArg some (linkstatByte_eq _ _ _))
  · exact (s.saveImage_global (k := 12) rfl).trans (congrArg some (PinEdge.code_eq _))
  · exact s.saveImage_global (k := 13) rfl
  · exact (s.saveImage_global (k := 14) rfl).trans (congrArg some (half_low_eq _))
  · exact (s.saveImage_global (k := 15) rfl).trans (congrArg some (half_high_eq _))
  · exact (s.saveImage_global (k := 16) rfl).trans (congrArg some (half_low_eq _))
  · exact (s.saveImage_global (k := 17) rfl).trans (congrArg some (half_high_eq _))
  · exact s.saveImage_gap h1 h2
  · exact savedField_at s i field
  · exact s.saveImage_tail h1 h2
  · rw [State.saveImage_take, ← half_high_eq]; exact high
  · rw [State.saveImage_take, ← half_low_eq]; exact low

/-- Settles O9: each byte of the image stands in its cell, and the load reads the same cells. -/
theorem savedImageLoadsBack : Obligations.SavedImageLoadsBack :=
  ⟨savedImageIsAccepted, savedImageAtCells, loadedFieldsFromCells⟩

end Sys2Proof.Machine
end

section
/-! SUPPORT. The transports and the port page: O10, O11, O12, O14 and O15. -/

namespace Sys2Proof.Machine

/-! ### The events that are no byte access -/

theorem spiTransferEvents : Clause.SpiTransferEvents := by
  intro p s
  refine ⟨fun h => ?_, fun v h => ?_, fun v w h => ?_, rfl⟩
  · simp [exec, execSpiCsFall, State.finish, Spi.csFall, h]
  · simp [exec, execSpiOperationByte, State.finish, Spi.operationByte, h]
  · simp [exec, execSpiAddressByte, State.finish, Spi.addressByte, h]

/-- Port C's own target address by its ADDR level (R139). -/
theorem I2c.ownTarget_eq (x : I2c) : x.ownTarget = if x.addr = Level.low then (0x2C : BitVec 7) else 0x2D := by
  unfold I2c.ownTarget
  cases x.addr <;> rfl

theorem i2cTransactionEvents : Clause.I2cTransactionEvents := by
  intro s
  refine ⟨rfl, fun target read h => ?_, fun v h => ?_, rfl, fun h => ?_⟩
  · simp [exec, execI2cTargetAddress, State.finish, I2c.targetAddress, h, I2c.ownTarget_eq]
  · simp [exec, execI2cAddressByte, State.finish, I2c.addressByte, h]
  · simp [exec, execI2cReadNack, State.finish, I2c.nack, h]

/-- Settles O10. -/
theorem transportEvents : Obligations.TransportEvents := ⟨spiTransferEvents, i2cTransactionEvents⟩

namespace State

/-! ### Accesses -/

/-- A command a word of the table can spell is an access of its row. -/
theorem exec_access_wellFormed {i : Instr} {p : Port} {x : Access} (s : State) (wf : i.wellFormed = true)
    (h : i.access = some (p, x)) : s.AccessRow i p x := by
  rcases s.exec_access h with row | ⟨-, -, ill⟩
  · exact row
  · rw [wf] at ill
    cases ill

/-- No owner's effect reaches a transport. -/
structure SameTransports (s t : State) : Prop where
  spiA : t.spiA = s.spiA
  spiB : t.spiB = s.spiB
  i2c : t.i2c = s.i2c

theorem SameTransports.refl (s : State) : s.SameTransports s := ⟨rfl, rfl, rfl⟩

theorem SameTransports.trans {s t u : State} (h : s.SameTransports t) (k : t.SameTransports u) : s.SameTransports u :=
  ⟨k.spiA.trans h.spiA, k.spiB.trans h.spiB, k.i2c.trans h.i2c⟩

theorem transports_of_linkFrame {s t : State} (h : LinkFrame s t) : s.SameTransports t := ⟨h.spiA, h.spiB, h.i2c⟩

theorem SameTransports.transfer {s t : State} (h : s.SameTransports t) (p : Port) : t.transfer p = s.transfer p := by
  cases p
  · simp only [State.transfer, h.spiA]
  · simp only [State.transfer, h.spiB]
  · simp only [State.transfer, h.i2c]

theorem loadConfig_transports (s : State) (r : PerPort Role) :
    s.SameTransports { s.loadConfig with roles := r } := by
  unfold loadConfig
  dsimp only
  split <;> exact ⟨rfl, rfl, rfl⟩

theorem startUp_transports (s : State) : s.SameTransports s.startUp := by
  refine startUp_keeps (X := s.SameTransports) (s.loadConfig_transports _) (fun t i _ h => h.trans ?_)
    (fun t h => h.trans (transports_of_linkFrame t.startLink_frame)) fun _ h => ⟨h.spiA, h.spiB, h.i2c⟩
  rw [changeSlot_eq]
  exact ⟨rfl, rfl, rfl⟩

theorem effect_transports {s t : State} (h : Effect s t) : s.SameTransports t := by
  rcases effect_frame h with h | h | h
  · exact transports_of_linkFrame h
  · cases h with
    | startUp _ => exact s.startUp_transports
    | enable i _ _ _ => rw [changeSlot_eq]; exact ⟨rfl, rfl, rfl⟩
    | _ => exact ⟨rfl, rfl, rfl⟩
  · obtain ⟨x, e⟩ := store_frame h
    exact ⟨e.spiA, e.spiB, e.i2c⟩

theorem effects_transports {s t : State} (h : Effects s t) : s.SameTransports t :=
  effects_keep (X := s.SameTransports) (fun _ _ e k => k.trans (effect_transports e)) h (.refl s)

theorem afterData_transports (s : State) (p : Port) (a : Byte) : s.SameTransports (s.afterData p a) :=
  ⟨afterData_spiA s p a, afterData_spiB s p a, afterData_i2c s p a⟩

/-- An access that is made carries one byte on the transport of a state whose transports are as before: during LOADING with
the byte 0, and at a location the row takes with the byte that location shows. -/
theorem exec_access_carries {i : Instr} {p : Port} {x : Access} {a : Byte} {s : State} (wf : i.wellFormed = true)
    (h : i.access = some (p, x)) (ht : s.transfer p = some (x.isWrite, a))
    (hm : s.ready = false ∨ s.rowTakes p i (s.target p a) = true) :
    ∃ (u : State) (r : Byte), exec i s = .next (u.afterByte p x.isWrite a r).settle ∧ s.SameTransports u ∧
      (s.ready = false → r = 0) ∧
      (s.ready = true → x.isWrite = false → r = readValue p (s.target p a) s) := by
  obtain ⟨mine, value, effect, e, takes, shows, works⟩ := s.exec_access_wellFormed wf h
  by_cases hr : s.ready = true
  · have taken : mine (s.target p a) = true := by
      rw [takes]
      exact hm.resolve_left (by simp [hr])
    refine ⟨(effect (s.target p a) s).afterData p a, value (s.target p a) s, ?_, ?_, fun k => ?_, fun _ => shows _⟩
    · rw [e, access_mine ⟨hr, ht⟩ taken]
      rfl
    · exact (effects_transports (works _ hr)).trans (afterData_transports _ _ _)
    · rw [hr] at k
      cases k
  · have hr : s.ready = false := by simpa using hr
    refine ⟨s, 0, ?_, .refl s, fun _ => rfl, fun k => ?_⟩
    · rw [e, access_loading _ _ _ hr ht]
      rfl
    · rw [hr] at k
      cases k

end State

/-- Settles O11: the access of every row is State.access, whose first branch is LOADING's. -/
theorem loadingAccessReachesNoOwner : Obligations.LoadingAccessReachesNoOwner := by
  intro i p x a s wf h hr ht
  obtain ⟨mine, value, effect, e, -, -, -⟩ := s.exec_access_wellFormed wf h
  rw [e, State.access_loading _ _ _ hr ht, State.afterByte_eq_byteCarried]
  rfl

theorem accessMovesTransport : Clause.AccessMovesTransport := by
  intro i p x a s wf h ht hm
  obtain ⟨u, r, e, same, -, -⟩ := State.exec_access_carries wf h ht hm
  refine ⟨_, e, fun q hq => ?_, ?_⟩
  · rw [State.settle_transfer, State.afterByte_transfer_ne _ _ _ _ hq, same.transfer]
  · rw [State.settle_transfer, State.afterByte_transfer u p _ a r ((same.transfer p).trans ht)]
    rfl

namespace State

/-- The transports once port `p`'s has carried a byte. -/
theorem byteCarried_lines (u : State) (p : Port) (w : Bool) (a r : Byte) :
    (∀ q : SpiPort,
        (q.port = p → (u.byteCarried p w a r).spi q =
          ⟨.data w (if a = 0x13 then a else a + 1), some (if w then 0 else r)⟩) ∧
        (q.port ≠ p → (u.byteCarried p w a r).spi q = u.spi q)) ∧
      (p = .c → (u.byteCarried p w a r).i2c =
        { u.i2c with current := if a = 0x13 then a else a + 1, sda := if w then none else some r, ack := w }) ∧
      (p ≠ .c → (u.byteCarried p w a r).i2c = u.i2c) := by
  refine ⟨fun q => ?_, ?_, ?_⟩
  · cases p <;> cases q <;> exact ⟨fun h => by cases h <;> rfl, fun h => by first | rfl | exact absurd rfl h⟩
  · rintro rfl
    rfl
  · intro h
    cases p
    · rfl
    · rfl
    · exact absurd rfl h

theorem SameTransports.spi {s t : State} (h : s.SameTransports t) (q : SpiPort) : t.spi q = s.spi q := by
  cases q
  · exact h.spiA
  · exact h.spiB

theorem settle_spi (s : State) (q : SpiPort) : s.settle.spi q = s.spi q := by cases q <;> rfl

end State

theorem accessDrivesLines : Clause.AccessDrivesLines := by
  intro i p x a next r s wf h ht hm hn loading shown
  obtain ⟨u, b, e, same, zero, shows⟩ := State.exec_access_carries wf h ht hm
  have byte : (if x.isWrite then 0 else b) = if x.isWrite then 0 else r := by
    cases hx : x.isWrite
    · cases hr : s.ready
      · rw [zero hr, loading hr]
      · obtain ⟨page, image⟩ := shown hr
        rw [shows hr hx]
        cases hl : s.target p a with
        | page l => rw [page l hl]; rfl
        | image l => rw [image l hl]; rfl
    · rfl
  have sent : (if x.isWrite then none else some b) = if x.isWrite then none else some r := by
    cases hx : x.isWrite
    · rw [hx] at byte
      exact congrArg some byte
    · rfl
  obtain ⟨spi, own, other⟩ := u.byteCarried_lines p x.isWrite a b
  rw [State.afterByte_eq_byteCarried] at e
  refine ⟨_, e, fun q => ⟨fun hq => ?_, fun hq => ?_⟩, fun hp => ?_, fun hp => ?_⟩
  · rw [State.settle_spi, (spi q).1 hq, byte, hn]
  · rw [State.settle_spi, (spi q).2 hq, same.spi]
  · rw [State.settle_i2c, own hp, sent, hn, same.i2c]
  · rw [State.settle_i2c, other hp, same.i2c]

theorem accessOfAnotherRow : Clause.AccessOfAnotherRow := by
  intro i p x a s h hs hm
  rcases s.exec_access h with ⟨mine, value, effect, e, takes, -, -⟩ | ⟨e, -, -⟩
  · rw [e, State.access_not_mine hs (by rw [takes, hm])]
    rfl
  · exact e

/-- Settles O12. -/
theorem accessAdvancesAddress : Obligations.AccessAdvancesAddress :=
  ⟨accessMovesTransport, accessDrivesLines, accessOfAnotherRow⟩

/-! ### The port's own registers -/

namespace PortContext

/-- What PORT_STATUS written with `v` clears (R152). -/
theorem clearStatus_eq (v : Byte) (c : PortContext) :
    c.clearStatus v =
      { c with
        accessRefused := if v.getLsbD 1 then false else c.accessRefused
        stageDiscarded := if v.getLsbD 2 then false else c.stageDiscarded
        cmdOverrun := if v.getLsbD 3 then false else c.cmdOverrun } := by
  have cleared (b flag : Bool) : (flag && !b) = if b then false else flag := by cases b <;> simp
  simp only [clearStatus, cleared]

theorem putPointer_low (v : Byte) (c : PortContext) :
    c.putPointer false v = { c with pointer := c.pointer.extractLsb' 8 5 ++ v } := rfl

theorem putPointer_high (v : Byte) (c : PortContext) :
    c.putPointer true v = { c with pointer := v.extractLsb' 0 5 ++ c.pointer.extractLsb' 0 8 } := by
  have high : v.setWidth 5 = v.extractLsb' 0 5 := BitVec.setWidth_eq_extractLsb' (by decide)
  have low : c.pointer.setWidth 8 = c.pointer.extractLsb' 0 8 := BitVec.setWidth_eq_extractLsb' (by decide)
  simp only [putPointer, high, low, if_true]

end PortContext

theorem portStatusWriteClears : Clause.PortStatusWriteClears := by
  intro p v s h
  calc exec (.portStatusWrite p v) s
      = .next ((s.modPort p (·.clearStatus v)).accessDone p true 0x04 0) :=
        State.contextWrite_done (l := .status) v _ h rfl
    _ = _ := by simp only [PortContext.clearStatus_eq]

/-- A write to a byte of PTR (R144). -/
theorem State.exec_ptrWrite {s : State} {p : Port} {a v : Byte} (high : Bool) (h : s.Stands p true a)
    (ht : s.target p a = .page (if high then .pointerHigh else .pointerLow)) :
    exec (.ptrWrite p v) s = .next ((s.modPort p (·.putPointer high v)).accessDone p true a 0) := by
  have mine : (s.target p a = .page .pointerLow || s.target p a = .page .pointerHigh) = true := by
    rw [ht]
    cases high <;> rfl
  have stored : storePointer p v (s.target p a) s = s.modPort p (·.putPointer high v) := by
    rw [ht]
    cases high <;> rfl
  calc exec (.ptrWrite p v) s
      = .next ((storePointer p v (s.target p a) s).accessDone p true a 0) :=
        writeAccess_mine (mine := fun t => t = .page .pointerLow || t = .page .pointerHigh) h mine
    _ = _ := by rw [stored]

theorem pageAndPointerWrites : Clause.PageAndPointerWrites := by
  intro p v s
  refine ⟨fun h => ?_, fun h => ?_, fun h => ?_⟩
  · have low : v.setWidth 6 = v.extractLsb' 0 6 := BitVec.setWidth_eq_extractLsb' (by decide)
    simp only [← low]
    exact State.contextWrite_done (l := .page) v _ h rfl
  · simp only [← PortContext.putPointer_low]
    exact State.exec_ptrWrite false h rfl
  · simp only [← PortContext.putPointer_high]
    exact State.exec_ptrWrite true h rfl

/-- Settles O14. -/
theorem portRegisterWrites : Obligations.PortRegisterWrites := ⟨portStatusWriteClears, pageAndPointerWrites⟩

/-! ### DATA_ACCESS -/

namespace State

theorem modPort_pointer (s : State) (p : Port) {f : PortContext → PortContext}
    (h : (f (s.port p)).pointer = (s.port p).pointer) : ((s.modPort p f).port p).pointer = (s.port p).pointer := by
  rw [modPort_port_self, h]

theorem stageByte_pointer (s : State) (p : Port) (i k : Fin 16) (v : Byte) :
    ((s.stageByte p i k v).port p).pointer = (s.port p).pointer := by
  unfold stageByte
  split_ifs
  · exact s.modPort_pointer p rfl
  · exact s.modPort_pointer p rfl
  · refine s.modPort_pointer p ?_
    split
    · rfl
    · split_ifs <;> rfl

theorem commitStage_no_stage {s : State} {p : Port} {i : Fin 16} (h : ∀ g, (s.port p).stage = some g → g.slot ≠ i) :
    s.commitStage p i = s := by
  unfold commitStage
  cases hg : (s.port p).stage with
  | none => rfl
  | some g => exact if_neg (h g hg)

theorem commitStage_taken {s : State} {p : Port} {i : Fin 16} {g : Stage} (hg : (s.port p).stage = some g)
    (hi : g.slot = i) (may : s.mayCommit p i = true) :
    s.commitStage p i = (s.modPort p fun c => { c with stage := none }).modSlot i (·.commit g.bytes) := by
  simp [commitStage, hg, hi, may]

theorem commitStage_refused {s : State} {p : Port} {i : Fin 16} {g : Stage} (hg : (s.port p).stage = some g)
    (hi : g.slot = i) (may : s.mayCommit p i = false) :
    s.commitStage p i = s.modPort p fun c => { c with stage := none, accessRefused := true } := by
  simp [commitStage, hg, hi, may, refuse]

theorem commitStage_pointer (s : State) (p : Port) (i : Fin 16) :
    ((s.commitStage p i).port p).pointer = (s.port p).pointer := by
  by_cases h : ∃ g, (s.port p).stage = some g ∧ g.slot = i
  · obtain ⟨g, hg, hi⟩ := h
    cases may : s.mayCommit p i
    · rw [commitStage_refused hg hi may, modPort_port_self]
    · rw [commitStage_taken hg hi may, modSlot_port, modPort_port_self]
  · rw [commitStage_no_stage fun g hg hi => h ⟨g, hg, hi⟩]

theorem writeGlobal_pointer (s : State) (p : Port) (g : Global) (allowed : Bool) (v : Byte) :
    ((s.writeGlobal p g allowed v).port p).pointer = (s.port p).pointer := by
  unfold writeGlobal
  split_ifs
  · rfl
  · exact s.modPort_pointer p rfl

theorem writeSlotConfig_pointer (s : State) (p : Port) (i : Fin 16) (f : ConfigField) (v : Byte) :
    ((s.writeSlotConfig p i f v).port p).pointer = (s.port p).pointer := by
  unfold writeSlotConfig
  split_ifs
  · rfl
  · exact s.modPort_pointer p rfl

/-- No write to an image location moves PTR. -/
theorem writeImage_pointer (s : State) (p : Port) (l : ImageLocation) (v : Byte) :
    ((s.writeImage p l v).port p).pointer = (s.port p).pointer := by
  cases l with
  | output i k => exact s.stageByte_pointer p i k v
  | commit i => exact s.commitStage_pointer p i
  | config i f => exact s.writeSlotConfig_pointer p i f v
  | setting g => cases g <;> exact s.writeGlobal_pointer p _ _ v
  | unassigned => rfl
  | _ => exact s.modPort_pointer p rfl

/-- A DATA access moves PTR on by one, from 0x1FFF to 0x0000 (R144). -/
theorem accessDone_pointer (s : State) (p : Port) (w : Bool) (r : Byte) :
    ((s.accessDone p w 0x13 r).port p).pointer = (s.port p).pointer + 1 := by cases p <;> rfl

theorem target_data (s : State) (p : Port) : s.target p 0x13 = .image (.at (s.port p).pointer) := rfl

/-- The location at DATA is one that DATA_ACCESS takes. -/
theorem dataAccess_takes {s : State} {p : Port} {w : Bool} (h : s.Stands p w 0x13) :
    (s.atData p && (s.target p 0x13).isImage) = true := by
  rw [target_data]
  simp [atData, h.2, dataAddress, Target.isImage]

theorem exec_dataAccess_read {s : State} {p : Port} (h : s.Stands p false 0x13) :
    exec (.dataAccess p .read) s =
      .next ((readEffect p (.image (.at (s.port p).pointer)) s).accessDone p false 0x13
        (s.imageByte p (.at (s.port p).pointer))) :=
  readAccess_mine (mine := fun t => s.atData p && t.isImage) h (dataAccess_takes h)

theorem exec_dataAccess_write {s : State} {p : Port} (v : Byte) (h : s.Stands p true 0x13) :
    exec (.dataAccess p (.write v)) s =
      .next ((s.writeImage p (.at (s.port p).pointer) v).accessDone p true 0x13 0) :=
  writeAccess_mine (mine := fun t => s.atData p && t.isImage) h (dataAccess_takes h)

theorem readEffect_image {s : State} (p : Port) {l : ImageLocation} (h : ∀ i, l ≠ .inputState i) :
    readEffect p (.image l) s = s := by
  cases l with
  | inputState i => exact absurd rfl (h i)
  | _ => rfl

theorem readEffect_image_pointer (s : State) (p : Port) (l : ImageLocation) :
    ((readEffect p (.image l) s).port p).pointer = (s.port p).pointer := by
  cases l with
  | inputState i => exact s.modPort_pointer p rfl
  | _ => rfl

end State

/-- Settles O15. -/
theorem dataAccessStreams : Obligations.DataAccessStreams := by
  intro p s
  refine ⟨fun h => ⟨_, State.exec_dataAccess_read h, ?_, fun other => ?_, fun i hi => ?_⟩,
    fun v h => ⟨_, State.exec_dataAccess_write v h, ?_, rfl⟩⟩
  · rw [State.accessDone_pointer, State.readEffect_image_pointer]
  · rw [State.readEffect_image p other]
  · rw [hi]
    rfl
  · rw [State.accessDone_pointer, State.writeImage_pointer]

end Sys2Proof.Machine
end

section
/-! SUPPORT. Writes to plain, read-only and unassigned locations, and TAKE_SNAPSHOT: O16 and O35. -/

namespace Sys2Proof.Machine

/-- The locations of the port page whose write sets ACCESS_REFUSED (R145, R146, R97). -/
def PageLocation.readOnly (l : PageLocation) : Bool :=
  match l with
  | .partCode | .revision | .portName | .role | .result | .detail | .linkState | .cycleLow | .cycleHigh | .health _
  | .window _ .state | .window _ .cause | .window _ .detail => true
  | _ => false

/-- The image locations whose write sets ACCESS_REFUSED (R59, R61, R72, R80, R129, R131, R165, R178). -/
def ImageLocation.readOnly (l : ImageLocation) : Bool :=
  match l with
  | .inputState _ | .inputByte _ _ | .commitCount _ | .outputLength _ | .health _ _ | .owner _ | .capture _
  | .linkStatus _ | .captureStatus _ | .identity _ => true
  | _ => false

namespace State

theorem writePlainPage_readOnly {l : PageLocation} (s : State) (p : Port) (v : Byte) (h : l.readOnly = true) :
    s.writePlainPage p l v = s.refuse p := by
  cases l with
  | window w f => cases f <;> first | rfl | cases h
  | _ => first | rfl | cases h

theorem writeImage_readOnly {l : ImageLocation} (s : State) (p : Port) (v : Byte) (h : l.readOnly = true) :
    s.writeImage p l v = s.refuse p := by
  cases l <;> first | rfl | cases h

/-- An access at an address that is neither DATA nor of the image window reaches its location of the port page. -/
theorem target_page {s : State} {p : Port} {a : Byte} {l : PageLocation} (h : PageLocation.at a = l)
    (plain : (Target.page l).isPlain = true) : s.target p a = .page l := by
  unfold target
  rw [h]
  cases l <;> first | rfl | cases plain

/-- PLAIN_WRITE by a write at a location of the port page. -/
theorem exec_plainWrite_page {s : State} {p : Port} {a : Byte} {l : PageLocation} (v : Byte) (h : s.Stands p true a)
    (ht : s.target p a = .page l) (plain : (Target.page l).isPlain = true) :
    exec (.plainWrite p (.write v)) s = .next ((s.writePlainPage p l v).accessDone p true a 0) := by
  refine (writeAccess_mine (mine := (·.isPlain)) h (ht ▸ plain)).trans ?_
  rw [ht]
  rfl

theorem isPlain_of_readOnly {l : PageLocation} (h : l.readOnly = true) : (Target.page l).isPlain = true := by
  cases l with
  | window w f => cases f <;> first | rfl | cases h
  | _ => first | rfl | cases h

theorem exec_plainWrite_readOnly {s : State} {p : Port} {a : Byte} {l : PageLocation} (v : Byte)
    (h : s.Stands p true a) (ht : s.target p a = .page l) (hl : l.readOnly = true) :
    exec (.plainWrite p (.write v)) s =
      .next ((s.modPort p fun c => { c with accessRefused := true }).accessDone p true a 0) := by
  rw [exec_plainWrite_page v h ht (isPlain_of_readOnly hl), writePlainPage_readOnly s p v hl]
  rfl

/-- PLAIN_WRITE by a write at an image location. -/
theorem exec_plainWrite_image {s : State} {p : Port} {a : Byte} {l : ImageLocation} (v : Byte) (h : s.Stands p true a)
    (ht : s.target p a = .image l) (plain : (Target.image l).isPlain = true) :
    exec (.plainWrite p (.write v)) s = .next ((s.writeImage p l v).accessDone p true a 0) := by
  refine (writeAccess_mine (mine := (·.isPlain)) h (ht ▸ plain)).trans ?_
  rw [ht]
  rfl

theorem image_isPlain_of_readOnly {l : ImageLocation} (h : l.readOnly = true) : (Target.image l).isPlain = true := by
  cases l <;> first | rfl | cases h

end State

/-- The read-only addresses 0x00 to 0x3F of the port page (11.1). -/
theorem PageLocation.at_readOnly {a : Byte}
    (h : a.toNat ≤ 0x03 ∨ a = 0x0C ∨ a = 0x0D ∨ (0x14 ≤ a.toNat ∧ a.toNat ≤ 0x16) ∨ (0x20 ≤ a.toNat ∧ a.toNat ≤ 0x2F)) :
    (PageLocation.at a).readOnly = true := by
  revert a
  decide +kernel

/-- The unassigned addresses 0x00 to 0x3F of the port page (11.1). -/
theorem PageLocation.at_unassigned {a : Byte}
    (h : a = 0x07 ∨ a = 0x0E ∨ a = 0x0F ∨ (0x17 ≤ a.toNat ∧ a.toNat ≤ 0x1F) ∨ (0x30 ≤ a.toNat ∧ a.toNat ≤ 0x3F)) :
    PageLocation.at a = .unassigned := by
  revert a
  decide +kernel

theorem plainWrites : Clause.PlainWrites := by
  intro p v a s h
  refine ⟨?_, ?_, ?_, fun ha => ?_, fun ha => ?_⟩
  · rintro rfl
    exact State.exec_plainWrite_page (l := .arg0) v h rfl rfl
  · rintro rfl
    exact State.exec_plainWrite_page (l := .arg1) v h rfl rfl
  · rintro rfl
    exact State.exec_plainWrite_page (l := .arg2) v h rfl rfl
  · have readOnly := PageLocation.at_readOnly ha
    exact State.exec_plainWrite_readOnly v h (State.target_page rfl (State.isPlain_of_readOnly readOnly)) readOnly
  · exact State.exec_plainWrite_page v h (State.target_page (PageLocation.at_unassigned ha) rfl) rfl

theorem windowReadOnlyWrites : Clause.WindowReadOnlyWrites := by
  intro p v a w f s h ht
  refine ⟨fun hf => State.exec_plainWrite_readOnly v h ht ?_, ?_⟩
  · rcases hf with rfl | rfl | rfl <;> rfl
  · rintro rfl
    exact State.exec_plainWrite_page v h ht rfl

theorem readOnlyImageWrites : Clause.ReadOnlyImageWrites := by
  intro p v a l s h ht
  refine ⟨fun hl => ?_, ?_⟩
  · have readOnly : l.readOnly = true := by
      obtain ⟨i, off, hl⟩ := hl
      rcases hl with rfl | rfl | rfl | rfl | rfl | rfl | rfl | rfl | rfl | rfl <;> rfl
    rw [State.exec_plainWrite_image v h ht (State.image_isPlain_of_readOnly readOnly),
      State.writeImage_readOnly s p v readOnly]
    rfl
  · rintro rfl
    exact State.exec_plainWrite_image v h ht rfl

/-! ### Image addresses that no write changes -/

theorem ImageLocation.runtime_readOnly (i : Fin 16) {o : Nat}
    (h : o ≤ 0x14 ∨ o = 0x20 ∨ o = 0x21 ∨ (0x40 ≤ o ∧ o ≤ 0x50)) : (ImageLocation.runtime i o).readOnly = true := by
  unfold ImageLocation.runtime
  split_ifs <;> first | rfl | omega

theorem ImageLocation.runtime_unassigned (i : Fin 16) {o : Nat}
    (h : (0x15 ≤ o ∧ o ≤ 0x1F) ∨ (0x33 ≤ o ∧ o ≤ 0x3F) ∨ (0x51 ≤ o ∧ o ≤ 0x7F)) :
    ImageLocation.runtime i o = .unassigned := by
  unfold ImageLocation.runtime
  split_ifs <;> first | rfl | omega

/-- The capture read area and the head of the settings page. -/
theorem ImageLocation.at_areas_readOnly {n : BitVec 13} (h1 : 0x1000 ≤ n.toNat) (h2 : n.toNat ≤ 0x1204) :
    (ImageLocation.at n).readOnly = true := by
  by_cases h : n.toNat ≤ 0x11FF
  · rw [ImageLocation.at_capture h1 h]
    rfl
  · rw [ImageLocation.at_settings (off := n.toNat - 0x1200) (by omega) (by omega), ImageLocation.settings,
      if_pos (by omega)]
    rfl

theorem ImageLocation.at_captureStatus {n : BitVec 13} {off : Nat} (h : n.toNat = 0x1280 + off) (ho : off < 6) :
    ImageLocation.at n = .captureStatus off := by
  have page : n.toNat / 128 = 37 := by omega
  have offset : n.toNat % 128 = off := by omega
  simp [ImageLocation.at, page, offset, ho]

theorem ImageLocation.at_identity {n : BitVec 13} {off : Nat} (h : n.toNat = 0x1300 + off) (ho : off < 5) :
    ImageLocation.at n = .identity off := by
  have page : n.toNat / 128 = 38 := by omega
  have offset : n.toNat % 128 = off := by omega
  simp [ImageLocation.at, page, offset, ho]

theorem ConfigField.at_none {o : Nat} (h : o = 0x07 ∨ 0x18 ≤ o) : ConfigField.at o = none := by
  rcases h with rfl | h
  · rfl
  · have past : ¬o - 8 < 16 := by omega
    unfold ConfigField.at
    split
    case h_9 => exact dif_neg past
    all_goals omega

/-- A write of PLAIN_WRITE, or at DATA of DATA_ACCESS, at an image location that PLAIN_WRITE covers. -/
theorem State.exec_image_write {c : Instr} {s : State} {p : Port} {v a : Byte} {n : BitVec 13}
    (hc : c = .plainWrite p (.write v) ∨ (c = .dataAccess p (.write v) ∧ a = 0x13)) (h : s.Stands p true a)
    (ha : s.AtImage p a n) (plain : (Target.image (.at n)).isPlain = true) :
    exec c s = .next ((s.writeImage p (.at n) v).accessDone p true a 0) := by
  have ht := target_of_atImage ha
  rcases hc with rfl | ⟨rfl, rfl⟩
  · exact exec_plainWrite_image v h ht plain
  · have pointer : ImageLocation.at (s.port p).pointer = .at n := Target.image.inj ht
    rw [exec_dataAccess_write v h, pointer]

theorem imageWritesByAddress : Clause.ImageWritesByAddress := by
  intro c p v a n s hc h ha
  refine ⟨fun hn => ?_, fun hn => ?_⟩
  · have readOnly : (ImageLocation.at n).readOnly = true := by
      rcases hn with ⟨i, o, hn, ho⟩ | ⟨h1, h2⟩ | ⟨h1, h2⟩ | ⟨h1, h2⟩
      · rw [ImageLocation.at_runtime hn (by omega)]
        exact ImageLocation.runtime_readOnly i ho
      · exact ImageLocation.at_areas_readOnly h1 h2
      · rw [ImageLocation.at_captureStatus (off := n.toNat - 0x1280) (by omega) (by omega)]
        rfl
      · rw [ImageLocation.at_identity (off := n.toNat - 0x1300) (by omega) (by omega)]
        rfl
    rw [State.exec_image_write hc h ha (State.image_isPlain_of_readOnly readOnly),
      State.writeImage_readOnly s p v readOnly]
    rfl
  · have unassigned : ImageLocation.at n = .unassigned := by
      rcases hn with ⟨i, o, hn, ho⟩ | ⟨i, o, hn, ho⟩ | hn
      · rw [ImageLocation.at_runtime hn (by omega)]
        exact ImageLocation.runtime_unassigned i ho
      · rw [ImageLocation.at_config hn (by omega), ConfigField.at_none (by omega)]
      · exact ImageLocation.at_unassigned hn
    rw [State.exec_image_write hc h ha (by rw [unassigned]; rfl), unassigned]
    rfl

/-- Settles O16. -/
theorem readOnlyAndPlainWrites : Obligations.ReadOnlyAndPlainWrites :=
  ⟨plainWrites, windowReadOnlyWrites, readOnlyImageWrites, imageWritesByAddress⟩

/-! ### TAKE_SNAPSHOT -/

theorem State.exec_takeSnapshot {s : State} {p : Port} {a : Byte} {i : Fin 16} (h : s.Stands p false a)
    (ht : s.target p a = .image (.inputState i)) :
    exec (.takeSnapshot p) s = .next ((s.takeSnapshot p i).accessDone p false a (s.slot i).input.state.code) := by
  refine (readAccess_mine (mine := (·.isInputState)) h (by rw [ht]; rfl)).trans ?_
  rw [ht]
  rfl

/-- Settles O35. -/
theorem takeSnapshotCopiesRecord : Obligations.TakeSnapshotCopiesRecord := by
  intro c p a n i s hc h ha hn
  have location : ImageLocation.at n = .inputState i := by
    rw [ImageLocation.at_runtime (i := i) (off := 0) (by omega) (by omega)]
    rfl
  have ht : s.target p a = .image (.inputState i) := by rw [State.target_of_atImage ha, location]
  have taken : exec c s = .next ((s.takeSnapshot p i).accessDone p false a (s.slot i).input.state.code) := by
    rcases hc with rfl | ⟨rfl, rfl⟩
    · exact State.exec_takeSnapshot h ht
    · have pointer : ImageLocation.at (s.port p).pointer = .inputState i := Target.image.inj ht
      rw [State.exec_dataAccess_read h, pointer]
      rfl
  rw [taken, RecordState.code.eq_def]
  rfl

end Sys2Proof.Machine
end

section
/-! SUPPORT. What every location shows to a read: O17. -/

namespace Sys2Proof.Machine

/-! ### Where a byte lies -/

theorem PageLocation.at_health {a : Byte} {i : Fin 16} (h : a.toNat = 0x20 + i.val) : PageLocation.at a = .health i := by
  have past : ¬a.toNat < 0x20 := by omega
  have before : a.toNat < 0x30 := by omega
  have slot : Fin.ofNat 16 a.toNat = i := Fin.ext (by simp only [Fin.ofNat]; omega)
  simp only [PageLocation.at, past, before, if_true, if_false, slot]

theorem PageLocation.at_window {a : Byte} {w : Fin 4} {off : Nat} (h : a.toNat = 0x40 + off + 16 * w.val)
    (ho : off < 16) : PageLocation.at a = .window w (.at off) := by
  have past1 : ¬a.toNat < 0x20 := by omega
  have past2 : ¬a.toNat < 0x30 := by omega
  have past3 : ¬a.toNat < 0x40 := by omega
  have before : a.toNat < 0x80 := by omega
  have window : Fin.ofNat 4 (a.toNat / 16) = w := Fin.ext (by simp only [Fin.ofNat]; omega)
  have offset : a.toNat % 16 = off := by omega
  simp only [PageLocation.at, past1, past2, past3, before, if_true, if_false, window, offset]

theorem WindowField.at_data (k : Fin 4) : WindowField.at (8 + k.val) = .data k := by revert k; decide

theorem WindowField.at_unassigned {off : Nat} (h1 : 0xD ≤ off) (h2 : off < 16) : WindowField.at off = .unassigned := by
  interval_cases off <;> rfl

theorem ImageLocation.runtime_output (i k : Fin 16) : ImageLocation.runtime i (0x22 + k.val) = .output i k := by
  revert k
  unfold ImageLocation.runtime
  simp only [Fin.forall_fin_succ]
  refine ⟨rfl, rfl, rfl, rfl, rfl, rfl, rfl, rfl, rfl, rfl, rfl, rfl, rfl, rfl, rfl, rfl, nofun⟩

theorem ImageLocation.runtime_input (i : Fin 16) {off : Nat} (h1 : 1 ≤ off) (h2 : off ≤ 0x14) :
    ImageLocation.runtime i off = .inputByte i off := by
  rw [ImageLocation.runtime, if_neg (by omega), if_pos h2]

theorem ConfigField.at_safe (k : Fin 16) : ConfigField.at (8 + k.val) = some (.safe k) := by
  revert k
  decide

namespace State

/-! ### Reads -/

/-- PLAIN_WRITE by a read at a location of the port page outside the window rows. -/
theorem exec_read_page {s : State} {p : Port} {a v : Byte} {l : PageLocation} (h : s.Stands p false a)
    (location : PageLocation.at a = l) (shown : s.pageByte p l = v)
    (own : (∀ w f, l ≠ .window w f) ∧ (∀ o, l ≠ .image o) ∧ l ≠ .data := by exact ⟨nofun, nofun, nofun⟩) :
    exec (.plainWrite p .read) s = .next (s.accessDone p false a v) := by
  obtain ⟨window, image, data⟩ := own
  have ht : s.target p a = .page l := by
    unfold target
    rw [location]
    cases l with
    | image o => exact absurd rfl (image o)
    | data => exact absurd rfl data
    | _ => rfl
  rw [← shown]
  exact plainRead_page h ht fun w hw => absurd hw (window w _)

/-- PLAIN_WRITE by a read in a window row, but for the read that triggers. -/
theorem exec_read_window {s : State} {p : Port} {a v : Byte} {w : Fin 4} {off : Nat} {f : WindowField}
    (h : s.Stands p false a) (ha : a.toNat = 0x40 + off + 16 * w.val) (ho : off < 16) (field : WindowField.at off = f)
    (shown : (s.window p w).byte f = v) (quiet : f = .data 0 → (s.window p w).fetch = false := by exact nofun) :
    exec (.plainWrite p .read) s = .next (s.accessDone p false a v) := by
  have ht : s.target p a = .page (.window w f) := by
    unfold target
    rw [PageLocation.at_window ha ho, field]
  rw [← shown]
  refine plainRead_page h ht fun k hk => ?_
  cases hk
  exact quiet rfl

/-- A read that does nothing but return a byte, as PLAIN_WRITE or, at DATA, as DATA_ACCESS. -/
theorem exec_read_image {c : Instr} {s : State} {p : Port} {a v : Byte} {n : BitVec 13} {l : ImageLocation}
    (hc : c = .plainWrite p .read ∨ (c = .dataAccess p .read ∧ a = 0x13)) (h : s.Stands p false a)
    (ha : s.AtImage p a n) (location : ImageLocation.at n = l) (shown : s.imageByte p l = v)
    (quiet : ∀ i, l ≠ .inputState i := by exact nofun) : exec c s = .next (s.accessDone p false a v) := by
  obtain ⟨plain, data⟩ := plainRead_image h ha (location ▸ quiet)
  rw [← shown, ← location]
  rcases hc with rfl | ⟨rfl, hd⟩
  · exact plain
  · exact data hd

theorem exec_plainRead_image {s : State} {p : Port} {a : Byte} {l : ImageLocation} (h : s.Stands p false a)
    (ht : s.target p a = .image l) (hl : ∀ i, l ≠ .inputState i) :
    exec (.plainWrite p .read) s = .next (s.accessDone p false a (s.imageByte p l)) := by
  have mine : s.isPlainRead p (s.target p a) = true := by
    rw [ht]
    cases l with
    | inputState i => exact absurd rfl (hl i)
    | _ => rfl
  refine (readAccess_mine (mine := s.isPlainRead p) h mine).trans ?_
  rw [ht, readEffect_image p hl]
  rfl

/-- The record that a port sees of a slot, by R76's rule. -/
theorem seenRecord_of_shows {s : State} {p : Port} {i : Fin 16} {r : RecordCopy} (h : s.Shows p i r) :
    s.seenRecord p i = r := by
  unfold seenRecord
  rcases h with ⟨snapshot, slot⟩ | ⟨other, rfl⟩
  · rw [snapshot]
    exact if_pos slot
  · cases hs : (s.port p).snapshot with
    | none => rfl
    | some x => exact if_neg (other x hs)

end State

theorem readByteAppears : Clause.ReadByteAppears := by
  intro p a r s
  unfold State.accessDone
  generalize (if a = 0x13 then s.modPort p fun c => { c with pointer := c.pointer + 1 } else s) = u
  obtain ⟨spi, own, -⟩ := u.byteCarried_lines p false a r
  refine ⟨fun q hq => ?_, fun hp => ?_⟩
  · rw [State.settle_spi, (spi q).1 hq]
    rfl
  · rw [State.settle_i2c, own hp]
    rfl

theorem plainReadsReturnByte : Clause.PlainReadsReturnByte := fun _ _ _ h =>
  ⟨fun _ ht hl => State.plainRead_page h ht hl, fun _ ht hl => State.exec_plainRead_image h ht hl⟩

theorem snapshotServesReads : Clause.SnapshotServesReads := by
  intro p a i off s h ht
  have read := State.exec_plainRead_image h ht nofun
  refine ⟨fun r hr hi => ?_, fun hr => ?_⟩
  · rw [read, State.imageByte, State.seenRecord_of_shows (.inl ⟨hr, hi⟩)]
  · rw [read, State.imageByte, State.seenRecord_of_shows (.inr ⟨hr, rfl⟩)]
    rfl

/-! ### The port page -/

/-- PORT_STATUS as it reads (R152). -/
theorem statusByte_eq (access stage overrun snapshot : Bool) :
    (Byte.bit true 0 ||| Byte.bit access 1 ||| Byte.bit stage 2 ||| Byte.bit overrun 3 ||| Byte.bit snapshot 4 : Byte) =
      (0 : BitVec 3) ++ BitVec.ofBool snapshot ++ BitVec.ofBool overrun ++ BitVec.ofBool stage ++ BitVec.ofBool access ++
        (1 : BitVec 1) := by
  revert access stage overrun snapshot
  decide

theorem pointerHigh_eq (x : BitVec 13) : ((x >>> 8).setWidth 8 : Byte) = (0 : BitVec 3) ++ x.extractLsb' 8 5 := by
  apply BitVec.eq_of_getLsbD_eq
  intro i hi
  simp only [BitVec.getLsbD_setWidth, BitVec.getLsbD_ushiftRight, BitVec.getLsbD_append, BitVec.getLsbD_extractLsb', hi]
  by_cases low : i < 5
  · simp [low]
  · simp [low, show 13 ≤ 8 + i by omega]

theorem setWidth_eq_append {n : Nat} (m : Nat) (x : BitVec n) : x.setWidth (m + n) = (0 : BitVec m) ++ x := by
  apply BitVec.eq_of_getLsbD_eq
  intro i hi
  rw [BitVec.getLsbD_setWidth, BitVec.getLsbD_append]
  by_cases low : i < n
  · simp [low, hi]
  · simp [low, hi, BitVec.getLsbD_of_ge x i (by omega)]

theorem portPageReads : Clause.PortPageReads := by
  intro p a v s h hv
  rcases hv with ⟨rfl, rfl⟩ | ⟨rfl, rfl⟩ | ⟨rfl, rfl⟩ | ⟨rfl, rfl⟩ | ⟨rfl, rfl⟩ | ⟨rfl, rfl⟩ | ⟨rfl, rfl⟩ | ⟨rfl, rfl⟩ |
    ⟨rfl, rfl⟩ | ⟨rfl, rfl⟩ | ⟨rfl, rfl⟩ | ⟨rfl, rfl⟩ | ⟨rfl, rfl⟩ | ⟨rfl, rfl⟩ | ⟨rfl, rfl⟩ | ⟨rfl, rfl⟩ | ⟨rfl, rfl⟩ |
    ⟨rfl, rfl⟩ | ⟨rfl, rfl⟩ | ⟨i, ha, rfl⟩ | ⟨ha, rfl⟩
  · exact State.exec_read_page (l := .partCode) h rfl rfl
  · exact State.exec_read_page (l := .revision) h rfl rfl
  · exact State.exec_read_page (l := .portName) h rfl (by cases p <;> rfl)
  · exact State.exec_read_page (l := .role) h rfl (by unfold State.pageByte; cases s.role p <;> rfl)
  · refine State.exec_read_page (l := .status) h rfl ?_
    rw [← statusByte_eq, State.pageByte, PortContext.status, h.1]
  · exact State.exec_read_page (l := .events) h rfl rfl
  · exact State.exec_read_page (l := .enables) h rfl rfl
  · exact State.exec_read_page (l := .cmd) h rfl rfl
  · exact State.exec_read_page (l := .arg0) h rfl rfl
  · exact State.exec_read_page (l := .arg1) h rfl rfl
  · exact State.exec_read_page (l := .arg2) h rfl rfl
  · refine State.exec_read_page (l := .result) h rfl ?_
    show (s.command p).result.code = _
    cases (s.command p).result <;> rfl
  · exact State.exec_read_page (l := .detail) h rfl rfl
  · exact State.exec_read_page (l := .page) h rfl (setWidth_eq_append 2 _)
  · exact State.exec_read_page (l := .pointerLow) h rfl (BitVec.setWidth_eq_extractLsb' (by decide))
  · exact State.exec_read_page (l := .pointerHigh) h rfl (pointerHigh_eq _)
  · refine State.exec_read_page (l := .linkState) h rfl ?_
    show s.sched.link.code = _
    cases s.sched.link <;> rfl
  · exact State.exec_read_page (l := .cycleLow) h rfl (half_low_eq _)
  · exact State.exec_read_page (l := .cycleHigh) h rfl (half_high_eq _)
  · refine State.exec_read_page (l := .health i) h (PageLocation.at_health ha) ?_
    show (s.slot i).health.state.code = _
    cases (s.slot i).health.state <;> rfl
  · exact State.exec_read_page (l := .unassigned) h (PageLocation.at_unassigned ha) rfl

theorem modeByte_eq (fetch step : Bool) :
    (Byte.bit fetch 0 ||| Byte.bit step 1 : Byte) = (0 : BitVec 6) ++ BitVec.ofBool step ++ BitVec.ofBool fetch := by
  revert fetch step
  decide

theorem bit_zero_eq (flag : Bool) : Byte.bit flag 0 = (0 : BitVec 7) ++ BitVec.ofBool flag := by
  revert flag
  decide

theorem windowRowReads : Clause.WindowRowReads := by
  intro p w a v s h hv
  rcases hv with ⟨ha, rfl⟩ | ⟨ha, rfl⟩ | ⟨ha, rfl⟩ | ⟨ha, rfl⟩ | ⟨ha, rfl⟩ | ⟨ha, rfl⟩ | ⟨ha, rfl⟩ | ⟨ha, rfl⟩ |
    ⟨k, ha, hk, rfl⟩ | ⟨ha, rfl⟩ | ⟨ha, ha', rfl⟩
  · exact State.exec_read_window (off := 0x0) h ha (by decide) rfl rfl
  · exact State.exec_read_window (off := 0x1) h ha (by decide) rfl (modeByte_eq _ _)
  · exact State.exec_read_window (off := 0x2) h ha (by decide) rfl (half_low_eq _)
  · exact State.exec_read_window (off := 0x3) h ha (by decide) rfl (half_high_eq _)
  · exact State.exec_read_window (off := 0x4) h ha (by decide) rfl (setWidth_eq_append 4 _)
  · refine State.exec_read_window (off := 0x5) h ha (by decide) rfl ?_
    show (s.window p w).state.code = _
    cases (s.window p w).state <;> rfl
  · refine State.exec_read_window (off := 0x6) h ha (by decide) rfl ?_
    show (s.window p w).cause.code = _
    rcases (s.window p w).cause with _ | f
    case link => cases f <;> rfl
    all_goals rfl
  · exact State.exec_read_window (off := 0x7) h ha (by decide) rfl (bit_zero_eq _)
  · refine State.exec_read_window (off := 8 + k.val) h (by omega) (by omega) (WindowField.at_data k) rfl fun e => ?_
    cases e
    exact hk.resolve_right fun ne => ne rfl
  · exact State.exec_read_window (off := 0xC) h ha (by decide) rfl rfl
  · exact State.exec_read_window (w := w) (off := a.toNat - 0x40 - 16 * w.val) h (by omega) (by omega)
      (WindowField.at_unassigned (by omega) (by omega)) rfl

end Sys2Proof.Machine
end

section
/-! SUPPORT. What the image space shows to a read: O17. -/

namespace Sys2Proof.Machine

/-! ### The pages of a slot -/

theorem flagsByte_eq (r : RecordCopy) :
    r.flags = (0 : BitVec 5) ++ BitVec.ofBool r.evt ++ BitVec.ofBool r.warn ++ BitVec.ofBool r.err :=
  linkstatByte_eq r.err r.warn r.evt

/-- A data byte of an input record, 0 at and beyond the length (R61). -/
theorem RecordCopy.byte_data (r : RecordCopy) (k : Fin 16) :
    r.byte (5 + k.val) = if k.val < r.length.toNat then r.data[k] else 0 := by
  have byte : r.byte (k.val + 5) = if k.val < r.length.toNat then r.data.toList.getD k.val 0 else 0 := rfl
  rw [Nat.add_comm, byte, List.getD_eq_getElem?_getD, List.getElem?_eq_getElem (by simp)]
  rfl

/-- A read in a slot's input record, but for its state byte. -/
theorem State.exec_read_record {c : Instr} {s : State} {p : Port} {i : Fin 16} {r : RecordCopy} {a v : Byte}
    {n : BitVec 13} {off : Nat} (hc : c = .plainWrite p .read ∨ (c = .dataAccess p .read ∧ a = 0x13))
    (h : s.Stands p false a) (ha : s.AtImage p a n) (hr : s.Shows p i r) (hn : n.toNat = off + 128 * i.val)
    (h1 : 1 ≤ off) (h2 : off ≤ 0x14) (shown : r.byte off = v) : exec c s = .next (s.accessDone p false a v) := by
  have location : ImageLocation.at n = .inputByte i off := by
    rw [ImageLocation.at_runtime hn (by omega), ImageLocation.runtime_input i h1 h2]
  refine exec_read_image hc h ha location ?_
  rw [← shown, ← seenRecord_of_shows hr]
  rfl

theorem inputRecordReads : Clause.InputRecordReads := by
  intro c p i r a v n s hc h ha hr hv
  rcases hv with ⟨hn, rfl⟩ | ⟨hn, rfl⟩ | ⟨hn, rfl⟩ | ⟨hn, rfl⟩ | ⟨k, hn, rfl⟩
  · exact State.exec_read_record hc h ha hr hn (by decide) (by decide) (flagsByte_eq r)
  · exact State.exec_read_record hc h ha hr hn (by decide) (by decide) rfl
  · exact State.exec_read_record hc h ha hr hn (by decide) (by decide) rfl
  · exact State.exec_read_record hc h ha hr hn (by decide) (by decide) rfl
  · exact State.exec_read_record (off := 5 + k.val) hc h ha hr (by omega) (by omega) (by omega) (r.byte_data k)

/-- A read in a slot's runtime page, but for its state byte. -/
theorem State.exec_read_runtime {c : Instr} {s : State} {p : Port} {i : Fin 16} {a v : Byte} {n : BitVec 13} {off : Nat}
    {l : ImageLocation} (hc : c = .plainWrite p .read ∨ (c = .dataAccess p .read ∧ a = 0x13)) (h : s.Stands p false a)
    (ha : s.AtImage p a n) (hn : n.toNat = off + 128 * i.val) (ho : off < 128)
    (location : ImageLocation.runtime i off = l) (shown : s.imageByte p l = v)
    (quiet : ∀ j, l ≠ .inputState j := by exact nofun) : exec c s = .next (s.accessDone p false a v) :=
  exec_read_image hc h ha ((ImageLocation.at_runtime hn ho).trans location) shown quiet

/-- The commit location and the gaps of a runtime page read 0 (R89, R176). -/
theorem ImageLocation.runtime_zero (s : State) (p : Port) (i : Fin 16) {o : Nat}
    (h : (0x15 ≤ o ∧ o ≤ 0x1F) ∨ (0x32 ≤ o ∧ o ≤ 0x3F) ∨ (0x51 ≤ o ∧ o ≤ 0x7F)) :
    s.imageByte p (.runtime i o) = 0 ∧ ∀ j, ImageLocation.runtime i o ≠ .inputState j := by
  by_cases commit : o = 0x32
  · rw [commit]
    exact ⟨rfl, nofun⟩
  · rw [ImageLocation.runtime_unassigned i (by omega)]
    exact ⟨rfl, nofun⟩

theorem runtimePageReads : Clause.RuntimePageReads := by
  intro c p i a v n x s hc h ha hx hv
  subst hx
  rcases hv with ⟨hn, rfl⟩ | ⟨hn, rfl⟩ | ⟨k, hn, rfl⟩ | ⟨hn, rfl⟩ | ⟨hn, rfl⟩ | ⟨hn, rfl⟩ | ⟨hn, rfl⟩ | ⟨hn, rfl⟩ |
    ⟨hn, rfl⟩ | ⟨hn, rfl⟩ | ⟨hn, rfl⟩ | ⟨hn, rfl⟩ | ⟨hn, rfl⟩ | ⟨hn, rfl⟩ | ⟨hn, rfl⟩ | ⟨hn, rfl⟩ | ⟨hn, rfl⟩ |
    ⟨hn, rfl⟩ | ⟨hn, rfl⟩ | ⟨hn, rfl⟩ | ⟨⟨o, hn, ho⟩, rfl⟩
  · exact State.exec_read_runtime (l := .commitCount i) hc h ha hn (by decide) rfl rfl
  · exact State.exec_read_runtime (l := .outputLength i) hc h ha hn (by decide) rfl rfl
  · exact State.exec_read_runtime (i := i) (off := 0x22 + k.val) hc h ha (by omega) (by omega)
      (ImageLocation.runtime_output i k) rfl
  · refine State.exec_read_runtime (l := .health i 0x40) hc h ha hn (by decide) rfl ?_
    show (s.slot i).health.state.code = _
    cases (s.slot i).health.state <;> rfl
  · refine State.exec_read_runtime (l := .health i 0x41) hc h ha hn (by decide) rfl ?_
    show failureCode (s.slot i).health.lastFailure = _
    rcases (s.slot i).health.lastFailure with _ | f
    · rfl
    · cases f <;> rfl
  · refine State.exec_read_runtime (l := .health i 0x42) hc h ha hn (by decide) rfl ?_
    show (s.slot i).health.lockCause.code = _
    cases (s.slot i).health.lockCause <;> rfl
  · exact State.exec_read_runtime (l := .health i 0x43) hc h ha hn (by decide) rfl rfl
  · exact State.exec_read_runtime (l := .health i 0x44) hc h ha hn (by decide) rfl rfl
  · exact State.exec_read_runtime (l := .health i 0x45) hc h ha hn (by decide) rfl rfl
  · exact State.exec_read_runtime (l := .health i 0x46) hc h ha hn (by decide) rfl (half_low_eq _)
  · exact State.exec_read_runtime (l := .health i 0x47) hc h ha hn (by decide) rfl (half_high_eq _)
  · refine State.exec_read_runtime (l := .owner i) hc h ha hn (by decide) rfl ?_
    show ownerCode (s.slot i).owner = _
    rcases (s.slot i).owner with _ | q
    · rfl
    · cases q <;> rfl
  · exact State.exec_read_runtime (l := .health i 0x49) hc h ha hn (by decide) rfl (half_low_eq _)
  · exact State.exec_read_runtime (l := .health i 0x4A) hc h ha hn (by decide) rfl (half_high_eq _)
  · exact State.exec_read_runtime (l := .health i 0x4B) hc h ha hn (by decide) rfl (half_low_eq _)
  · exact State.exec_read_runtime (l := .health i 0x4C) hc h ha hn (by decide) rfl (half_high_eq _)
  · exact State.exec_read_runtime (l := .health i 0x4D) hc h ha hn (by decide) rfl rfl
  · exact State.exec_read_runtime (l := .health i 0x4E) hc h ha hn (by decide) rfl (half_low_eq _)
  · exact State.exec_read_runtime (l := .health i 0x4F) hc h ha hn (by decide) rfl (half_high_eq _)
  · exact State.exec_read_runtime (l := .health i 0x50) hc h ha hn (by decide) rfl rfl
  · obtain ⟨zero, quiet⟩ := ImageLocation.runtime_zero s p i ho
    exact State.exec_read_runtime hc h ha hn (by omega) rfl zero quiet

/-- A read of a byte of a slot's configuration. -/
theorem State.exec_read_config {c : Instr} {s : State} {p : Port} {i : Fin 16} {a v : Byte} {n : BitVec 13} {off : Nat}
    {f : ConfigField} (hc : c = .plainWrite p .read ∨ (c = .dataAccess p .read ∧ a = 0x13)) (h : s.Stands p false a)
    (ha : s.AtImage p a n) (hn : n.toNat = 0x0800 + off + 128 * i.val) (ho : off < 128)
    (field : ConfigField.at off = some f) (shown : (s.slot i).config.byte f = v) :
    exec c s = .next (s.accessDone p false a v) := by
  refine exec_read_image (l := .config i f) hc h ha ?_ shown
  rw [ImageLocation.at_config hn ho, field]

theorem configurationPageReads : Clause.ConfigurationPageReads := by
  intro c p i a v n x s hc h ha hx hv
  subst hx
  rcases hv with ⟨hn, rfl⟩ | ⟨hn, rfl⟩ | ⟨hn, rfl⟩ | ⟨hn, rfl⟩ | ⟨hn, rfl⟩ | ⟨hn, rfl⟩ | ⟨hn, rfl⟩ | ⟨k, hn, rfl⟩ |
    ⟨hn, rfl⟩
  · exact State.exec_read_config (off := 0) hc h ha hn (by decide) rfl rfl
  · exact State.exec_read_config (off := 1) hc h ha hn (by decide) rfl (optionsByte_eq _ _ _ _)
  · exact State.exec_read_config (off := 2) hc h ha hn (by decide) rfl (half_low_eq _)
  · exact State.exec_read_config (off := 3) hc h ha hn (by decide) rfl (half_high_eq _)
  · exact State.exec_read_config (off := 4) hc h ha hn (by decide) rfl rfl
  · exact State.exec_read_config (off := 5) hc h ha hn (by decide) rfl rfl
  · exact State.exec_read_config (off := 6) hc h ha hn (by decide) rfl rfl
  · exact State.exec_read_config (i := i) (off := 8 + k.val) hc h ha (by omega) (by omega) (ConfigField.at_safe k) rfl
  · refine State.exec_read_image (l := .unassigned) hc h ha ?_ rfl
    rw [ImageLocation.at_config (i := i) (off := n.toNat - 0x0800 - 128 * i.val) (by omega) (by omega),
      ConfigField.at_none (by omega)]

/-! ### The capture read area -/

theorem RecordCopy.entryBytes_length (r : RecordCopy) : r.entryBytes.length = 22 := by simp [entryBytes]

/-- Byte `j` of entry `e`, entries of 22 bytes one after the other. -/
theorem entries_getElem? (entries : List RecordCopy) {e j : Nat} {y : RecordCopy} (he : entries[e]? = some y)
    (hj : j < 22) : (entries.flatMap (·.entryBytes))[22 * e + j]? = y.entryBytes[j]? := by
  induction entries generalizing e with
  | nil => cases he
  | cons x rest ih =>
    rw [List.flatMap_cons]
    cases e with
    | zero =>
      cases he
      rw [List.getElem?_append_left (by rw [RecordCopy.entryBytes_length]; omega), Nat.mul_zero, Nat.zero_add]
    | succ e =>
      have next : 22 * (e + 1) + j - 22 = 22 * e + j := by omega
      rw [List.getElem?_append_right (by rw [RecordCopy.entryBytes_length]; omega), RecordCopy.entryBytes_length, next]
      exact ih he

theorem CaptureRecord.areaBytes_length (r : CaptureRecord) : r.areaBytes.length = 9 + 22 * r.entries.length := by
  simp [areaBytes, List.length_flatMap, RecordCopy.entryBytes_length]
  omega

/-- A byte of an entry in the capture read area (11.3.3). -/
theorem CaptureRecord.areaBytes_entry {r : CaptureRecord} {e : Nat} {y : RecordCopy} (he : r.entries[e]? = some y) {j : Nat}
    (hj : j < 22) : r.areaBytes.getD (9 + 22 * e + j) 0 = y.entryBytes.getD j 0 := by
  have past : 9 + 22 * e + j - 9 = 22 * e + j := by omega
  rw [List.getD_eq_getElem?_getD, List.getD_eq_getElem?_getD, areaBytes,
    List.getElem?_append_right (by simp only [List.length_cons, List.length_nil]; omega)]
  simp only [List.length_cons, List.length_nil, Nat.zero_add, Nat.reduceAdd, past, entries_getElem? r.entries he hj]

theorem RecordCopy.entryBytes_data (y : RecordCopy) (j : Fin 16) : y.entryBytes.getD (6 + j.val) 0 = y.data[j] := by
  have past : 6 + j.val - 6 = j.val := by omega
  rw [List.getD_eq_getElem?_getD, entryBytes,
    List.getElem?_append_right (by simp only [List.length_cons, List.length_nil]; omega)]
  simp only [List.length_cons, List.length_nil, Nat.zero_add, Nat.reduceAdd, past]
  rw [List.getElem?_eq_getElem (by simp)]
  rfl

/-- A read in the capture read area with a record at the port's cursor. -/
theorem State.exec_read_capture {c : Instr} {s : State} {p : Port} {a v : Byte} {n : BitVec 13} {off : Nat}
    {k : Cursor} {r : CaptureRecord} (hc : c = .plainWrite p .read ∨ (c = .dataAccess p .read ∧ a = 0x13))
    (h : s.Stands p false a) (ha : s.AtImage p a n) (h2 : n.toNat ≤ 0x11FF) (hn : n.toNat = 0x1000 + off)
    (cursor : (s.port p).cursor = some k) (unread : 0 < k.unread)
    (record : s.capture.ring[s.capture.ring.length - k.unread]? = some r) (shown : r.areaBytes.getD off 0 = v) :
    exec c s = .next (s.accessDone p false a v) := by
  have offset : n.toNat - 0x1000 = off := by omega
  have current : s.recordAt p = some r := by
    have count : (s.port p).unread = k.unread := by rw [PortContext.unread, cursor]
    rw [recordAt, count, if_pos unread, record]
  refine exec_read_image hc h ha (ImageLocation.at_capture (by omega) h2) ?_
  rw [offset, ← shown, imageByte, captureAreaByte, current]

theorem captureAreaReads : Clause.CaptureAreaReads := by
  intro c p a v n s hc h ha h1 h2 hv
  rcases hv with ⟨absent, rfl⟩ | ⟨k, r, cursor, unread, record, hv⟩
  · have empty : s.recordAt p = none := by
      rcases absent with absent | ⟨k, cursor, unread⟩
      · simp [State.recordAt, PortContext.unread, absent]
      · simp [State.recordAt, PortContext.unread, cursor, unread]
    refine State.exec_read_image hc h ha (ImageLocation.at_capture h1 h2) ?_
    rw [State.imageByte, State.captureAreaByte, empty]
  have header {off : Nat} (hn : n = BitVec.ofNat 13 (0x1000 + off)) (ho : off < 9)
      (shown : r.areaBytes.getD off 0 = v) : exec c s = .next (s.accessDone p false a v) :=
    State.exec_read_capture hc h ha h2 (by rw [hn, BitVec.toNat_ofNat]; omega) cursor unread record shown
  rcases hv with ⟨hn, rfl⟩ | ⟨hn, rfl⟩ | ⟨hn, rfl⟩ | ⟨hn, rfl⟩ | ⟨hn, rfl⟩ | ⟨hn, rfl⟩ | ⟨hn, rfl⟩ | ⟨hn, rfl⟩ |
    ⟨hn, rfl⟩ | ⟨e, y, he, hv⟩ | ⟨hn, rfl⟩
  · exact header (off := 0) hn (by decide) rfl
  · exact header (off := 1) hn (by decide) (half_low_eq _)
  · exact header (off := 2) hn (by decide) (half_high_eq _)
  · refine header (off := 3) hn (by decide) ?_
    show r.source.code = _
    cases r.source <;> rfl
  · refine header (off := 4) hn (by decide) ?_
    show r.source.detail = _
    rcases r.source with _ | _ | j | q
    case command => cases q <;> rfl
    all_goals rfl
  · exact header (off := 5) hn (by decide) (half_low_eq _)
  · exact header (off := 6) hn (by decide) (half_high_eq _)
  · exact header (off := 7) hn (by decide) rfl
  · exact header (off := 8) hn (by decide) rfl
  · have entry {j : Nat} (hn : n.toNat = 0x1009 + 22 * e + j) (hj : j < 22) (shown : y.entryBytes.getD j 0 = v) :
        exec c s = .next (s.accessDone p false a v) :=
      State.exec_read_capture (off := 9 + 22 * e + j) hc h ha h2 (by omega) cursor unread record
        ((CaptureRecord.areaBytes_entry he hj).trans shown)
    rcases hv with ⟨hn, rfl⟩ | ⟨hn, rfl⟩ | ⟨hn, rfl⟩ | ⟨hn, rfl⟩ | ⟨hn, rfl⟩ | ⟨hn, rfl⟩ | ⟨j, hn, rfl⟩
    · exact entry (j := 0) hn (by decide) rfl
    · refine entry (j := 1) (by omega) (by decide) ?_
      show y.state.code = _
      cases y.state <;> rfl
    · exact entry (j := 2) (by omega) (by decide) (flagsByte_eq y)
    · exact entry (j := 3) (by omega) (by decide) rfl
    · exact entry (j := 4) (by omega) (by decide) rfl
    · exact entry (j := 5) (by omega) (by decide) rfl
    · exact entry (j := 6 + j.val) (by omega) (by omega) (y.entryBytes_data j)
  · refine State.exec_read_capture (off := n.toNat - 0x1000) hc h ha h2 (by omega) cursor unread record ?_
    rw [List.getD_eq_getElem?_getD, List.getElem?_eq_none (by rw [r.areaBytes_length]; omega)]
    rfl

/-! ### The settings, status and identity pages -/

theorem settingsPageReads : Clause.SettingsPageReads := by
  intro c p a v n code s hc h ha control observe supervise hv
  have setting (g : Global) (hn : ImageLocation.at n = .setting g) (shown : s.config.byte g = v) :
      exec c s = .next (s.accessDone p false a v) := State.exec_read_image hc h ha hn shown
  have status (off : Nat) (hn : ImageLocation.at n = .linkStatus off) (shown : s.linkStatusByte off = v) :
      exec c s = .next (s.accessDone p false a v) := State.exec_read_image hc h ha hn shown
  rcases hv with ⟨rfl, rfl⟩ | ⟨rfl, rfl⟩ | ⟨rfl, rfl⟩ | ⟨rfl, rfl⟩ | ⟨rfl, rfl⟩ | ⟨rfl, rfl⟩ | ⟨rfl, rfl⟩ | ⟨rfl, rfl⟩ |
    ⟨rfl, rfl⟩ | ⟨rfl, rfl⟩ | ⟨rfl, rfl⟩ | ⟨rfl, rfl⟩ | ⟨rfl, rfl⟩ | ⟨rfl, rfl⟩ | ⟨rfl, rfl⟩ | ⟨rfl, rfl⟩ | ⟨rfl, rfl⟩ |
    ⟨rfl, rfl⟩ | ⟨rfl, rfl⟩ | ⟨rfl, rfl⟩ | ⟨rfl, rfl⟩ | ⟨rfl, rfl⟩ | ⟨rfl, rfl⟩ | ⟨hn, rfl⟩
  · refine status 0 rfl ?_
    show s.sched.link.code = _
    cases s.sched.link <;> rfl
  · exact status 1 rfl (half_low_eq _)
  · exact status 2 rfl (half_high_eq _)
  · exact status 3 rfl (half_low_eq _)
  · exact status 4 rfl (half_high_eq _)
  · exact setting .bitRate rfl (rateByte_eq _ _)
  · exact setting .period rfl rfl
  · exact setting .timeout rfl rfl
  · exact setting .allowance rfl rfl
  · exact setting .staleLimit rfl rfl
  · exact setting .suspectLimit rfl rfl
  · exact setting .firstQuick rfl rfl
  · exact setting .rejoinQuick rfl rfl
  · exact setting .backoff rfl rfl
  · exact setting .lockout rfl rfl
  · refine setting .roles rfl ?_
    simp only [Role.code_eq control observe supervise]
    exact rolesByte_eq _ _ _
  · exact setting .linkstat rfl (linkstatByte_eq _ _ _)
  · exact setting .pinEdge rfl (PinEdge.code_eq _)
  · exact setting .timerDivider rfl rfl
  · exact setting .captureLow rfl (half_low_eq _)
  · exact setting .captureHigh rfl (half_high_eq _)
  · exact setting .eventLow rfl (half_low_eq _)
  · exact setting .eventHigh rfl (half_high_eq _)
  · refine State.exec_read_image (l := .unassigned) hc h ha (ImageLocation.at_unassigned ?_) rfl
    rcases hn with hn | hn
    · exact .inl hn
    · exact .inr (.inl hn)

theorem statusPagesRead : Clause.StatusPagesRead := by
  intro c p a v n s hc h ha hv
  have status (off : Nat) (hn : ImageLocation.at n = .captureStatus off) (shown : s.captureStatusByte p off = v) :
      exec c s = .next (s.accessDone p false a v) := State.exec_read_image hc h ha hn shown
  have identity (off : Nat) (hn : ImageLocation.at n = .identity off) (shown : s.identityByte off = v) :
      exec c s = .next (s.accessDone p false a v) := State.exec_read_image hc h ha hn shown
  rcases hv with ⟨rfl, rfl⟩ | ⟨rfl, rfl⟩ | ⟨rfl, rfl⟩ | ⟨rfl, rfl⟩ | ⟨rfl, rfl⟩ | ⟨rfl, rfl⟩ | ⟨rfl, rfl⟩ | ⟨rfl, rfl⟩ |
    ⟨rfl, rfl⟩ | ⟨rfl, rfl⟩ | ⟨rfl, rfl⟩ | ⟨hn, rfl⟩
  · exact status 0 rfl (linkstatByte_eq _ _ _)
  · exact status 1 rfl rfl
  · exact status 2 rfl (half_low_eq _)
  · exact status 3 rfl (half_high_eq _)
  · exact status 4 rfl rfl
  · refine status 5 rfl ?_
    show BitVec.ofNat 8 (s.port p).unread = _
    rw [PortContext.unread]
    cases (s.port p).cursor <;> rfl
  · exact identity 0 rfl rfl
  · exact identity 1 rfl rfl
  · refine identity 2 rfl ?_
    show s.store.state.code = _
    cases s.store.state <;> rfl
  · refine identity 3 rfl ?_
    show s.store.resetCause.code = _
    cases s.store.resetCause <;> rfl
  · refine identity 4 rfl ?_
    show s.store.lastSave.code = _
    cases s.store.lastSave <;> rfl
  · exact State.exec_read_image (l := .unassigned) hc h ha (ImageLocation.at_unassigned (.inr (.inr hn))) rfl

/-- Settles O17. -/
theorem readsReturnByte : Obligations.ReadsReturnByte :=
  ⟨readByteAppears, plainReadsReturnByte, snapshotServesReads, portPageReads, windowRowReads, inputRecordReads,
    runtimePageReads, configurationPageReads, captureAreaReads, settingsPageReads, statusPagesRead⟩

end Sys2Proof.Machine
end

section
/-! SUPPORT. The command slot's checks: O18 and O19. -/

namespace Sys2Proof.Machine

namespace State

/-- A write of CMD other than PORT_CLEAR: the code and the owner it goes to (R146, R148). -/
theorem exec_command {i : Instr} {p : Port} (s : State) (wf : i.wellFormed = true) (h : i.commandOf = some p) :
    ∃ code owner, exec i s = (s.cmdWrite p code owner).finish := by
  cases i
  case unknownCommand q code =>
    cases h
    exact ⟨code, (·.unknownAnswer code), congrArg State.finish (if_pos wf)⟩
  all_goals cases h
  all_goals exact ⟨_, _, rfl⟩

end State

theorem commandWhileInProgressOverruns : Clause.CommandWhileInProgressOverruns := by
  intro i p s wf h hs busy
  obtain ⟨code, owner, e⟩ := s.exec_command wf h
  rw [e, State.cmdWrite_busy code owner hs busy]

theorem unknownCodeIsAnswered : Clause.UnknownCodeIsAnswered := by
  intro p code s hcode hc
  have unknown : unknownCode code = true := by simpa [unknownCode] using hcode
  exact (congrArg State.finish (if_pos unknown)).trans (State.cmdWrite_unchanged hc rfl)

/-- Settles O18. -/
theorem commandSlotTaking : Obligations.CommandSlotTaking := ⟨commandWhileInProgressOverruns, unknownCodeIsAnswered⟩

/-! ### The checks of role and index -/

namespace State

theorem checkRole_refused {s : State} {permitted : Bool} (next : Answer) (h : permitted = false) :
    s.checkRole permitted next = ⟨s, .refusedRole, 0⟩ := by
  rw [h]
  rfl

theorem checkRole_passed {s : State} {permitted : Bool} (next : Answer) (h : permitted = true) :
    s.checkRole permitted next = next := by
  rw [h]
  rfl

theorem mayDrive_observe {s : State} {p : Port} (h : s.role p = .observe) : s.mayDrive p = false := by simp [mayDrive, h]

theorem mayDrive_of_ne {s : State} {p : Port} (h : s.role p ≠ .observe) : s.mayDrive p = true := by simp [mayDrive, h]

theorem supervises_of_ne {s : State} {p : Port} (h : s.role p ≠ .supervise) : s.supervises p = false := by
  simp [supervises, h]

theorem supervises_of_role {s : State} {p : Port} (h : s.role p = .supervise) : s.supervises p = true := by
  simp [supervises, h]

/-- A write of CMD leaves ARG0, so an index out of range stays so (R146, R147). -/
theorem arg0_modCommand_code {s : State} {p : Port} {n : Nat} (code : Byte) (h : n ≤ (s.command p).arg0.toNat) :
    n ≤ ((s.modCommand p fun c => { c with code := code }).command p).arg0.toNat := by
  rwa [modCommand_command_self]

/-- A command whose role check refuses the port. -/
theorem cmdWrite_role {s : State} {p : Port} {code : Byte} {permitted : State → Bool} {next : State → Answer}
    (h : s.CanCommand p) (refused : permitted (s.modCommand p fun c => { c with code := code }) = false) :
    (s.cmdWrite p code fun u => u.checkRole (permitted u) (next u)).finish = .next (s.commandDone p code .refusedRole 0) :=
  cmdWrite_unchanged h (checkRole_refused _ refused)

/-- A command of a permitted role that names no slot. -/
theorem cmdWrite_index {s : State} {p : Port} {code : Byte} {permitted : State → Bool} {next : State → Fin 16 → Answer}
    (h : s.CanCommand p) (passed : permitted (s.modCommand p fun c => { c with code := code }) = true)
    (index : 16 ≤ (s.command p).arg0.toNat) :
    (s.cmdWrite p code fun u => u.checkRole (permitted u) (u.withSlot p (next u))).finish =
      .next (s.commandDone p code .badArg 0xF0) :=
  cmdWrite_unchanged h ((checkRole_passed _ passed).trans (withSlot_refused _ (arg0_modCommand_code code index)))

/-- A command that every role is permitted, and that names no slot. -/
theorem cmdWrite_index_only {s : State} {p : Port} {code : Byte} {next : State → Fin 16 → Answer} (h : s.CanCommand p)
    (index : 16 ≤ (s.command p).arg0.toNat) :
    (s.cmdWrite p code fun u => u.withSlot p (next u)).finish = .next (s.commandDone p code .badArg 0xF0) :=
  cmdWrite_unchanged h (withSlot_refused _ (arg0_modCommand_code code index))

end State

theorem roleRefusals : Clause.RoleRefusals := by
  intro p s hc
  refine ⟨fun hr => ?_, fun hr => ?_⟩
  · have refused {code : Byte} : (s.modCommand p fun c => { c with code := code }).mayDrive p = false :=
      State.mayDrive_observe hr
    exact ⟨State.cmdWrite_role hc refused, State.cmdWrite_role hc refused⟩
  · have refused {code : Byte} : (s.modCommand p fun c => { c with code := code }).supervises p = false :=
      State.supervises_of_ne hr
    exact ⟨State.cmdWrite_role hc refused, State.cmdWrite_role hc refused, State.cmdWrite_role hc refused,
      State.cmdWrite_role hc refused, State.cmdWrite_role hc refused, State.cmdWrite_role hc refused⟩

theorem indexRefusals : Clause.IndexRefusals := by
  intro p s hc
  refine ⟨fun index => ⟨State.cmdWrite_index_only hc index, State.cmdWrite_index_only hc index, fun hr => ?_, fun hr => ?_⟩,
    fun index => ?_⟩
  · have passed {code : Byte} : (s.modCommand p fun c => { c with code := code }).mayDrive p = true :=
      State.mayDrive_of_ne hr
    exact ⟨State.cmdWrite_index hc passed index, State.cmdWrite_index hc passed index⟩
  · have passed {code : Byte} : (s.modCommand p fun c => { c with code := code }).supervises p = true :=
      State.supervises_of_role hr
    exact ⟨State.cmdWrite_index hc passed index, State.cmdWrite_index hc passed index,
      State.cmdWrite_index hc passed index⟩
  · have none : windowOf ((s.modCommand p fun c => { c with code := 0x0C }).command p).arg0 = none :=
      State.windowOf_none (State.arg0_modCommand_code 0x0C index)
    refine State.cmdWrite_unchanged hc ?_
    rw [State.cancelAnswer, none]
    rfl

/-- Settles O19. -/
theorem commandCheckRefusals : Obligations.CommandCheckRefusals := ⟨roleRefusals, indexRefusals⟩

end Sys2Proof.Machine
end

section
/-! SUPPORT. The commands that name a slot: O20, O23, O24, O25 and O26. -/

namespace Sys2Proof.Machine

namespace State

/-! ### CLAIM -/

/-- A driving port's CLAIM passes the role and index checks (R81). -/
theorem claimAnswer_drives {s : State} {p : Port} {i : Fin 16} (hi : s.NamesSlot p i) (hr : s.role p ≠ .observe) :
    s.claimAnswer p = s.claimSlot p i :=
  (checkRole_passed _ (mayDrive_of_ne hr)).trans (withSlot_names _ hi)

theorem claimSlot_unowned {s : State} {i : Fin 16} (p : Port) (h : (s.slot i).owner = none) :
    s.claimSlot p i = ⟨s.modSlot i fun x => { x with owner := some p }, .done, p.code⟩ := by simp [claimSlot, h]

theorem claimSlot_own {s : State} {i : Fin 16} {p : Port} (h : (s.slot i).owner = some p) :
    s.claimSlot p i = ⟨s, .done, p.code⟩ := by simp [claimSlot, h]

theorem claimSlot_other {s : State} {i : Fin 16} {p q : Port} (hq : q ≠ p) (h : (s.slot i).owner = some q) :
    s.claimSlot p i = ⟨s, .refusedOwned, q.code⟩ := by simp [claimSlot, h, hq]

end State

/-- Settles O20. -/
theorem claimByOwner : Obligations.ClaimByOwner := by
  intro p i s hc hi hr
  have passed := State.claimAnswer_drives (hi.modCommand_code 0x01) hr
  refine ⟨fun ho => ?_, fun ho => ?_, fun q hq ho => ?_⟩
  · refine State.cmdWrite_changed (u := s.modSlot i fun x => { x with owner := some p }) hc (passed.trans ?_)
    exact (State.claimSlot_unowned (s := s.modCommand p _) p ho).trans (by rw [State.modSlot_modCommand])
  · exact State.cmdWrite_unchanged hc (passed.trans (State.claimSlot_own ho))
  · exact State.cmdWrite_unchanged hc (passed.trans (State.claimSlot_other hq ho))

/-! ### COMMIT -/

namespace State

theorem mayCommit_iff (s : State) (p : Port) (i : Fin 16) :
    s.mayCommit p i = true ↔ (s.slot i).owner = some p ∨ ((s.slot i).owner = none ∧ s.role p = .supervise) := by
  simp [mayCommit]

theorem not_mayCommit {s : State} {p : Port} {i : Fin 16}
    (h : (∃ q, q ≠ p ∧ (s.slot i).owner = some q) ∨ ((s.slot i).owner = none ∧ s.role p ≠ .supervise)) :
    s.mayCommit p i = false := by
  rcases h with ⟨q, hq, ho⟩ | ⟨ho, hr⟩
  · simp [mayCommit, ho, hq]
  · simp [mayCommit, ho, hr]

/-- A write to a commit location, as COMMIT or, at DATA, as DATA_ACCESS. -/
theorem exec_commit {c : Instr} {s : State} {p : Port} {v a : Byte} {n : BitVec 13} {i : Fin 16}
    (hc : c = .commit p v ∨ (c = .dataAccess p (.write v) ∧ a = 0x13)) (h : s.Stands p true a) (ha : s.AtImage p a n)
    (hn : n.toNat = 0x32 + 128 * i.val) : exec c s = .next ((s.commitStage p i).accessDone p true a 0) := by
  have location : ImageLocation.at n = .commit i := ImageLocation.at_runtime hn (by decide)
  have ht : s.target p a = .image (.commit i) := by rw [target_of_atImage ha, location]
  rcases hc with rfl | ⟨rfl, rfl⟩
  · refine (writeAccess_mine (mine := (·.isCommit)) h (by rw [ht]; rfl)).trans ?_
    rw [ht]
    rfl
  · have pointer : ImageLocation.at (s.port p).pointer = .commit i := Target.image.inj ht
    rw [exec_dataAccess_write v h, pointer]
    rfl

end State

/-- Settles O23. -/
theorem commitByStageAndOwner : Obligations.CommitByStageAndOwner := by
  intro c p v a n i s hc h ha hn
  rw [State.exec_commit hc h ha hn]
  refine ⟨fun none => ?_, fun g hg hi => ⟨fun may => ?_, fun refused => ?_⟩⟩
  · rw [State.commitStage_no_stage none]
  · rw [State.commitStage_taken hg hi ((s.mayCommit_iff p i).mpr may)]
    rfl
  · rw [State.commitStage_refused hg hi (State.not_mayCommit refused)]

/-! ### ENABLE -/

namespace State

theorem enableAnswer_supervise {s : State} {p : Port} {i : Fin 16} (hi : s.NamesSlot p i) (hr : s.role p = .supervise) :
    s.enableAnswer p = s.enableSlot i :=
  (checkRole_passed _ (supervises_of_role hr)).trans (withSlot_names _ hi)

theorem addressValid_of_range {s : State} {i : Fin 16} (low : 1 ≤ (s.slot i).config.address.toNat)
    (high : (s.slot i).config.address.toNat ≤ 62) : s.addressValid i = true := by
  unfold addressValid
  rw [Bool.and_eq_true]
  exact ⟨decide_eq_true low, decide_eq_true high⟩

theorem enableSlot_no_address {s : State} {i : Fin 16} (h : (s.slot i).config.address = 0) :
    s.enableSlot i = ⟨s, .badArg, 0xF1⟩ := by
  have invalid : s.addressValid i = false := by simp [addressValid, h]
  simp [enableSlot, invalid, badAddress]

theorem addressHolder_none {s : State} {i : Fin 16}
    (h : ∀ j, j ≠ i → (s.slot j).health.state ≠ .disabled → (s.slot j).config.address ≠ (s.slot i).config.address) :
    s.addressHolder i = none := by
  unfold addressHolder
  rw [List.find?_eq_none]
  intro j _ hj
  simp only [Bool.and_eq_true, decide_eq_true_eq] at hj
  exact h j hj.1.1 hj.1.2 hj.2

/-- No two slots that are not DISABLED hold one address, so a slot that holds this one is the one that is found (R44). -/
theorem addressHolder_some {s : State} {i j : Fin 16} (hj : j ≠ i) (on : (s.slot j).health.state ≠ .disabled)
    (same : (s.slot j).config.address = (s.slot i).config.address) (unique : s.AddressesUnique) :
    s.addressHolder i = some j := by
  obtain ⟨-, distinct⟩ := unique
  cases e : s.addressHolder i with
  | none =>
    unfold addressHolder at e
    rw [List.find?_eq_none] at e
    exact absurd (by simp [hj, on, same]) (e j (List.mem_finRange j))
  | some k =>
    have found := List.find?_some e
    simp only [Bool.and_eq_true, decide_eq_true_eq] at found
    obtain ⟨⟨-, onk⟩, samek⟩ := found
    by_contra ne
    exact distinct k j (fun kj => ne (by rw [kj])) onk on (samek.trans same.symm)

theorem enableSlot_holder {s : State} {i j : Fin 16} (valid : s.addressValid i = true) (h : s.addressHolder i = some j) :
    s.enableSlot i = ⟨s, .badArg, BitVec.ofNat 8 j.val⟩ := by simp [enableSlot, valid, h]

theorem enableSlot_on {s : State} {i : Fin 16} (valid : s.addressValid i = true) (free : s.addressHolder i = none)
    (on : (s.slot i).health.state ≠ .disabled) :
    s.enableSlot i = ⟨s, .refusedState, (s.slot i).health.state.code⟩ := by
  simp [enableSlot, valid, free, on, healthDetail]

/-- A DISABLED slot with SLOT_CHANGE in every port: its records and its health as ENABLE leaves them (R43). -/
theorem changeSlot_enable {s : State} {i : Fin 16} (off : (s.slot i).health.state = .disabled) :
    s.changeSlot i (·.enable) =
      (s.modSlot i (·.enable)).modPorts fun c => { c with events := c.events ||| 0x08 } := by
  have changes : ¬(Slot.enable (s.slot i)).health.state = (s.slot i).health.state := by
    rw [off]
    nofun
  rw [changeSlot_eq, if_neg changes]

theorem enableSlot_off {s : State} {i : Fin 16} (valid : s.addressValid i = true) (free : s.addressHolder i = none)
    (off : (s.slot i).health.state = .disabled) : s.enableSlot i = ⟨s.changeSlot i (·.enable), .done, 1⟩ := by
  have probing : (s.changeSlot i (·.enable)).healthDetail i = 1 := by
    rw [healthDetail, changeSlot_slot_eq, if_pos rfl]
    rfl
  simp [enableSlot, valid, free, off, probing]

/-- A write of CMD leaves every slot, so the address checks answer as before. -/
theorem addressHolder_modCommand (s : State) (p : Port) (f : CommandSlot → CommandSlot) (i : Fin 16) :
    (s.modCommand p f).addressHolder i = s.addressHolder i := rfl

end State

/-- Settles O24. -/
theorem enableBySupervise : Obligations.EnableBySupervise := by
  intro p i s hc hi hr
  have passed := State.enableAnswer_supervise (hi.modCommand_code 0x04) hr
  refine ⟨fun zero => ?_, fun low high => ?_⟩
  · exact State.cmdWrite_unchanged hc (passed.trans (State.enableSlot_no_address zero))
  have valid : s.addressValid i = true := State.addressValid_of_range low high
  refine ⟨fun j hj on same unique => ?_, fun other => ⟨fun on => ?_, fun off => ?_⟩⟩
  · exact State.cmdWrite_unchanged hc
      (passed.trans (State.enableSlot_holder valid (State.addressHolder_some hj on same unique)))
  · exact State.cmdWrite_unchanged hc (passed.trans (State.enableSlot_on valid (State.addressHolder_none other) on))
  · have enabled : exec (.enable p) s = .next ((s.changeSlot i (·.enable)).commandDone p 0x04 .done 1) := by
      refine State.cmdWrite_changed hc (passed.trans ?_)
      refine (State.enableSlot_off (s := s.modCommand p _) valid (State.addressHolder_none other) off).trans ?_
      rw [State.changeSlot_modCommand]
    rw [enabled, State.changeSlot_enable off]
    rfl

/-! ### DISABLE -/

namespace State

theorem disableAnswer_supervise {s : State} {p : Port} {i : Fin 16} (hi : s.NamesSlot p i)
    (hr : s.role p = .supervise) : s.disableAnswer p = s.disableAnswerSlot i :=
  (checkRole_passed _ (supervises_of_role hr)).trans (withSlot_names _ hi)

theorem exec_disable_off {s : State} {p : Port} {i : Fin 16} (hc : s.CanCommand p) (hi : s.NamesSlot p i)
    (hr : s.role p = .supervise) (off : (s.slot i).health.state = .disabled) :
    exec (.disable p) s = .next (s.commandDone p 0x05 .done 0) :=
  cmdWrite_unchanged hc ((disableAnswer_supervise (hi.modCommand_code _) hr).trans (if_pos off))

theorem exec_disable_on {s : State} {p : Port} {i : Fin 16} (hc : s.CanCommand p) (hi : s.NamesSlot p i)
    (hr : s.role p = .supervise) (on : (s.slot i).health.state ≠ .disabled) :
    exec (.disable p) s = .next ((s.disableSlot i).commandDone p 0x05 .done 0) := by
  refine cmdWrite_changed hc ((disableAnswer_supervise (hi.modCommand_code _) hr).trans ((if_neg on).trans ?_))
  rw [disableSlot_modCommand]
  rfl

/-- A DISABLE of a slot with no pending request withdraws nothing (R55). -/
theorem withdrawDisabled_none {s : State} {i : Fin 16} (h : ∀ k, s.handed = some k → k.slot ≠ i) :
    s.withdrawDisabled i = s := by
  unfold withdrawDisabled
  cases e : s.handed with
  | none => rfl
  | some k => exact if_neg (h k e)

/-- A request of the slot pending at its DISABLE is withdrawn, and in RUNNING the next turn is taken (R29, R55). -/
theorem withdrawDisabled_some {s : State} {i : Fin 16} {k : Kind} (h : s.handed = some ⟨k, i⟩) :
    s.withdrawDisabled i =
      if (s.withdraw .slotLeft).sched.link = .running then (s.withdraw .slotLeft).nextTurn else s.withdraw .slotLeft := by
  unfold withdrawDisabled
  rw [h]
  exact if_pos rfl

theorem withdraw_sched (s : State) (c : Cause) : (s.withdraw c).sched = s.sched := by
  unfold withdraw
  cases s.handed with
  | none => rfl
  | some h =>
    cases h with
    | mk k i =>
      cases k
      · rfl
      · rfl
      · exact dropOut_sched _ _
      · exact dropOut_sched _ _

/-- The state in which a DISABLE has done all but the withdrawal of a pending request (R54, R55, R110). -/
def slotDisabled (s : State) (i : Fin 16) : State :=
  (((s.modSlot i (·.disable)).modPorts fun c => { c with events := c.events ||| 0x08 }).requestsRemoved
    (fun r => r.slot = i) .slotLeft).modSched fun c =>
      { c with discard := c.discard || s.engine.exchange.any fun x => x.slot = i }

theorem disableSlot_eq_slotDisabled {s : State} {i : Fin 16} (on : (s.slot i).health.state ≠ .disabled) :
    s.disableSlot i = (s.slotDisabled i).withdrawDisabled i := disableSlot_eq on

theorem slotDisabled_handed (s : State) (i : Fin 16) : (s.slotDisabled i).handed = s.handed := rfl

theorem slotDisabled_link (s : State) (i : Fin 16) : (s.slotDisabled i).sched.link = s.sched.link := rfl

/-- With no request of the slot queued and none in flight, a DISABLE changes the slot alone. -/
theorem slotDisabled_quiet {s : State} {i : Fin 16} (queue : ∀ r ∈ s.queue, r.slot ≠ i)
    (exchange : ∀ x, s.engine.exchange = some x → x.slot ≠ i) :
    s.slotDisabled i = (s.modSlot i (·.disable)).modPorts fun c => { c with events := c.events ||| 0x08 } := by
  have none : (s.engine.exchange.any fun x => x.slot = i) = false := by
    cases e : s.engine.exchange with
    | none => rfl
    | some x => simpa using exchange x e
  unfold slotDisabled
  rw [requestsRemoved_none _ fun r hr => by simpa using queue r hr, none]
  simp only [Bool.or_false]
  rfl

end State

theorem disableBySupervise : Clause.DisableBySupervise := by
  intro p i s hc hi hr
  refine ⟨State.exec_disable_off hc hi hr, fun on queue handed exchange => ?_⟩
  rw [State.exec_disable_on hc hi hr on, State.disableSlot_eq_slotDisabled on,
    State.withdrawDisabled_none (s := s.slotDisabled i) handed, State.slotDisabled_quiet queue exchange]
  rfl

theorem disableWithRequests : Clause.DisableWithRequests := by
  intro p i s u hc hi hr on hu
  have off : u = s.slotDisabled i := hu
  rw [State.exec_disable_on hc hi hr on, State.disableSlot_eq_slotDisabled on, ← off]
  have pending : u.handed = s.handed := by rw [off]; rfl
  have link : (u.withdraw .slotLeft).sched.link = s.sched.link := by rw [State.withdraw_sched, off]; rfl
  refine ⟨fun handed => ?_, fun k handed => ⟨u.withdraw .slotLeft, u.withdrawDisabled i, rfl, ?_, fun h => ?_, fun h => ?_⟩⟩
  · rw [State.withdrawDisabled_none (by rwa [pending])]
  · exact State.withdrawnGives_withdraw (pending.trans handed) .slotLeft
  · rw [State.withdrawDisabled_some (pending.trans handed), if_neg (by rwa [link])]
  · rw [State.withdrawDisabled_some (pending.trans handed), if_pos (by rwa [link])]
    exact (State.turnGives_iff _ _).mpr rfl

/-- Settles O25. -/
theorem disableTakesSlotOff : Obligations.DisableTakesSlotOff := ⟨disableBySupervise, disableWithRequests⟩

/-! ### RESTART and CLEAR_LATCH -/

namespace State

theorem restartAnswer_drives {s : State} {p : Port} {i : Fin 16} (hi : s.NamesSlot p i) (hr : s.role p ≠ .observe) :
    s.restartAnswer p = s.restartSlot i :=
  (checkRole_passed _ (mayDrive_of_ne hr)).trans (withSlot_names _ hi)

theorem restartSlot_locked {s : State} {i : Fin 16} (locked : (s.slot i).health.state = .lockedOut) :
    s.restartSlot i = ⟨s.changeSlot i fun x => { x with health := x.health.restart }, .done, 1⟩ := by
  have probing : (s.changeSlot i fun x => { x with health := x.health.restart }).healthDetail i = 1 := by
    rw [healthDetail, changeSlot_slot_eq, if_pos rfl]
    rfl
  simp [restartSlot, locked, probing]

theorem changeSlot_restart {s : State} {i : Fin 16} (locked : (s.slot i).health.state = .lockedOut) :
    (s.changeSlot i fun x => { x with health := x.health.restart }) =
      (s.modSlot i fun x => { x with health := x.health.restart }).modPorts fun c =>
        { c with events := c.events ||| 0x08 } := by
  have changes : ¬(Health.restart (s.slot i).health).state = (s.slot i).health.state := by
    rw [locked]
    nofun
  rw [changeSlot_eq, if_neg changes]

theorem clearLatchAnswer_authority {s : State} {p : Port} {i : Fin 16} (hi : s.NamesSlot p i)
    (h : (s.slot i).owner = some p ∨ s.role p = .supervise) :
    s.clearLatchAnswer p =
      ⟨s.modSlot i fun x => { x with input := { x.input with err := false } }, .done, Byte.bit (s.slot i).input.err 0⟩ :=
  (withSlot_names _ hi).trans (if_pos (h.imp_right supervises_of_role))

theorem clearLatchAnswer_refused {s : State} {p : Port} {i : Fin 16} (hi : s.NamesSlot p i)
    (role : s.role p ≠ .supervise) (owner : (s.slot i).owner ≠ some p) :
    s.clearLatchAnswer p = ⟨s, .notOwner, ownerCode (s.slot i).owner⟩ := by
  refine (withSlot_names _ hi).trans (if_neg ?_)
  rintro (h | h)
  · exact owner h
  · rw [supervises_of_ne role] at h
    cases h

end State

theorem restartLockedOut : Clause.RestartLockedOut := by
  intro p i s hc hi hr
  have passed := State.restartAnswer_drives (hi.modCommand_code 0x06) hr
  refine ⟨fun locked => ?_, fun other => ?_⟩
  · have restarted : exec (.restart p) s =
        .next ((s.changeSlot i fun x => { x with health := x.health.restart }).commandDone p 0x06 .done 1) := by
      refine State.cmdWrite_changed hc (passed.trans ((State.restartSlot_locked (s := s.modCommand p _) locked).trans ?_))
      rw [State.changeSlot_modCommand]
    rw [restarted, State.changeSlot_restart locked]
    rfl
  · exact State.cmdWrite_unchanged hc (passed.trans (if_neg other))

theorem clearLatchByAuthority : Clause.ClearLatchByAuthority := by
  intro p i s hc hi
  have refused (role : s.role p ≠ .supervise) (owner : (s.slot i).owner ≠ some p) :
      exec (.clearLatch p) s = .next (s.commandDone p 0x07 .notOwner (ownerCode (s.slot i).owner)) :=
    State.cmdWrite_unchanged hc (State.clearLatchAnswer_refused (hi.modCommand_code _) role owner)
  refine ⟨fun may => ?_, fun role ho => ?_, fun role q hq ho => ?_⟩
  · have detail : Byte.bit (s.slot i).input.err 0 = if (s.slot i).input.err then 1 else 0 := by
      cases (s.slot i).input.err <;> rfl
    rw [← detail]
    refine State.cmdWrite_changed (u := s.modSlot i fun x => { x with input := { x.input with err := false } }) hc
      ((State.clearLatchAnswer_authority (hi.modCommand_code _) may).trans ?_)
    rw [State.modSlot_modCommand, State.modCommand_slot]
  · rw [refused role (by rw [ho]; nofun), ho]
    rfl
  · rw [refused role (by rw [ho]; simpa using hq), ho]
    rfl

/-- Settles O26. -/
theorem restartAndClearLatch : Obligations.RestartAndClearLatch := ⟨restartLockedOut, clearLatchByAuthority⟩

end Sys2Proof.Machine
end

section
/-! SUPPORT. Link health and the slots' own work: O27, O28 and O29. -/

namespace Sys2Proof.Machine

/-! ### Evidence by health state -/

namespace Health

/-- The counts a failed exchange leaves (R41). -/
def failed (f : LinkFailure) (h : Health) : Health :=
  { h with
    failureCount := if h.failureCount = 0xFFFF then 0xFFFF else h.failureCount + 1
    lastFailure := some f }

theorem longBackoff_eq (c : LiveConfig) : c.longBackoff = 8 * c.backoffCode.toNat := Nat.mul_comm _ _

theorem lose_eq (c : LiveConfig) (h : Health) :
    h.lose c =
      { h with
        lossCount := if h.lossCount = 0xFF then 0xFF else h.lossCount + 1
        state := .backoff
        backoff := 8 * c.backoffCode.toNat
        round := .rejoin
        rounds := 0
        quick := 0
        consecutive := 0 } := by
  rw [lose, longBackoff_eq, saturate_byte]

/-- A report on a slot that is not DISABLED (R41). -/
theorem report_success {h : Health} (cfg : SlotConfig) (c : LiveConfig) (k : Kind) (r : Reply) (on : h.state ≠ .disabled) :
    h.report cfg c k (.success r) = h.good cfg k r.payload := if_neg on

theorem report_failed {h : Health} (cfg : SlotConfig) (c : LiveConfig) (k : Kind) (f : LinkFailure)
    (on : h.state ≠ .disabled) : h.report cfg c k (.failed f) = h.failure c k f := if_neg on

theorem failure_probing {h : Health} (c : LiveConfig) (f : LinkFailure) (e : h.state = .probing) :
    h.failure c .ident f = (h.failed f).failedIdent c := by
  unfold failure failed
  rw [saturate_half, e]
  exact if_pos rfl

theorem failure_active {h : Health} (c : LiveConfig) {k : Kind} (f : LinkFailure) (e : h.state = .active)
    (hk : k ≠ .ident) : h.failure c k f = (h.failed f).activeFailure c := by
  unfold failure failed
  rw [saturate_half, e]
  exact if_neg hk

theorem failure_suspect {h : Health} (c : LiveConfig) {k : Kind} (f : LinkFailure) (e : h.state = .suspect)
    (hk : k ≠ .ident) : h.failure c k f = (h.failed f).suspectFailure c := by
  unfold failure failed
  rw [saturate_half, e]
  exact if_neg hk

/-- The reports that act on no slot in this state (R48). -/
theorem failure_counts {h : Health} (c : LiveConfig) {k : Kind} (f : LinkFailure)
    (idle : (k ≠ .ident ∧ (h.state = .probing ∨ h.state = .backoff ∨ h.state = .lockedOut)) ∨
      (k = .ident ∧ h.state ≠ .probing ∧ h.state ≠ .disabled)) : h.failure c k f = h.failed f := by
  unfold failure failed
  rw [saturate_half]
  rcases idle with ⟨hk, e | e | e⟩ | ⟨hk, ne, -⟩
  · rw [e]
    exact if_neg hk
  · rw [e]
  · rw [e]
  · cases e : h.state with
    | probing => exact absurd e ne
    | active => exact if_pos hk
    | suspect => exact if_pos hk
    | _ => rfl

theorem good_counts {h : Health} (cfg : SlotConfig) {k : Kind} (payload : List Byte)
    (idle : (k ≠ .ident ∧ (h.state = .probing ∨ h.state = .backoff ∨ h.state = .lockedOut)) ∨
      (k = .ident ∧ h.state ≠ .probing ∧ h.state ≠ .disabled)) :
    h.good cfg k payload = { h with goodCount := h.goodCount + 1 } := by
  unfold good
  rcases idle with ⟨hk, e | e | e⟩ | ⟨hk, ne, -⟩
  · rw [e]
    exact if_neg hk
  · rw [e]
  · rw [e]
  · cases e : h.state with
    | probing => exact absurd e ne
    | suspect => exact if_pos hk
    | _ => rfl

theorem good_probing {h : Health} (cfg : SlotConfig) (payload : List Byte) (e : h.state = .probing) :
    h.good cfg .ident payload = ({ h with goodCount := h.goodCount + 1 } : Health).goodIdent cfg payload := by
  simp only [good, e, if_true]

end Health

theorem failureLeadsToSuspectOrLoss : Clause.FailureLeadsToSuspectOrLoss := by
  intro cfg c k f h hk
  refine ⟨fun e limit => ?_, fun e below => ?_, fun reached => ?_⟩
  · have above : ¬c.suspectLimit.toNat ≤ 1 := by omega
    rw [Health.report_failed _ _ _ _ (by rw [e]; nofun), Health.failure_active c f e hk, Health.activeFailure, if_neg above]
    rfl
  · rw [Health.report_failed _ _ _ _ (by rw [e]; nofun), Health.failure_suspect c f e hk]
    exact if_pos below
  · have lost : h.failure c k f = (h.failed f).lose c := by
      rcases reached with ⟨e, limit⟩ | ⟨e, limit⟩
      · rw [Health.failure_active c f e hk]
        exact if_pos limit.le
      · rw [Health.failure_suspect c f e hk]
        exact if_neg (Nat.not_lt.mpr limit)
    have on : h.state ≠ .disabled := by
      rcases reached with ⟨e, -⟩ | ⟨e, -⟩ <;> rw [e] <;> nofun
    rw [Health.report_failed _ _ _ _ on, lost, Health.lose_eq]
    rfl

theorem probeOutcomes : Clause.ProbeOutcomes := by
  intro cfg c h g e
  have on : h.state ≠ .disabled := by rw [e]; nofun
  refine ⟨fun r hg => ?_, fun f count n hg hcount hn => ?_⟩
  · have good : h.report cfg c .ident (.success r) =
        ({ h with goodCount := h.goodCount + 1 } : Health).goodIdent cfg r.payload := by
      rw [Health.report_success _ _ _ _ on, Health.good_probing cfg _ e]
    have reported : g.reportedClass = identClass r.payload := by rw [hg]; rfl
    rw [good, Health.goodIdent, reported]
    subst hg
    refine ⟨fun wrong => if_pos wrong, fun right => ⟨fun shape => ?_, fun input output => ?_⟩⟩
    · rw [if_neg fun wrong => right.elim wrong.1 wrong.2, if_pos shape]
    · rw [if_neg fun wrong => right.elim wrong.1 wrong.2,
        if_neg fun shape => shape.elim (fun ne => ne input) fun ne => ne output]
  · have counted : g = { h.failed f with quick := h.quick + 1 } := hg
    have quick : count = c.quickCount h.round := by
      rw [hcount]
      cases h.round <;> rfl
    have failed : h.report cfg c .ident (.failed f) = if h.quick + 1 < count then g else g.roundEnd c := by
      rw [Health.report_failed _ _ _ _ on, Health.failure_probing c f e, Health.failedIdent, counted, quick]
      rfl
    have rounds : (if g.rounds < 7 then g.rounds + 1 else g.rounds) = n := by
      rw [hn, counted]
      rfl
    refine ⟨fun more => failed.trans (if_pos more), fun spent => ?_⟩
    rw [failed, if_neg (Nat.not_lt.mpr spent), Health.roundEnd, rounds]
    refine ⟨fun limit reached => if_pos ⟨limit, reached⟩, fun room => ?_⟩
    have stays : ¬(c.lockoutRounds ≠ 0 ∧ n ≥ c.lockoutRounds.toNat) := fun out =>
      room.elim out.1 fun below => absurd below (Nat.not_lt.mpr out.2)
    rw [← Health.longBackoff_eq]
    exact if_neg stays

theorem goodReportKeepsOrRestores : Clause.GoodReportKeepsOrRestores := by
  intro cfg c k r h hk
  refine ⟨fun e => ?_, fun e => ?_⟩
  · rw [Health.report_success _ _ _ _ (by rw [e]; nofun), Health.good, e]
  · rw [Health.report_success _ _ _ _ (by rw [e]; nofun), Health.good, e]
    exact if_neg hk

theorem reportsThatOnlyCount : Clause.ReportsThatOnlyCount := by
  intro cfg c k d h
  refine ⟨Health.report_disabled cfg c k d, fun idle => ?_⟩
  have on : h.state ≠ .disabled := by
    rcases idle with ⟨-, e | e | e⟩ | ⟨-, -, ne⟩
    · rw [e]; nofun
    · rw [e]; nofun
    · rw [e]; nofun
    · exact ne
  refine ⟨fun r hd => ?_, fun f hd => ?_⟩
  · rw [hd, Health.report_success _ _ _ _ on, Health.good_counts cfg _ idle]
  · rw [hd, Health.report_failed _ _ _ _ on, Health.failure_counts c f idle]
    rfl

/-- A SUSPECT slot that a good report has made ACTIVE again (R50). -/
def Slot.restored (z : Slot) : Slot :=
  { z with health := { z.health with state := .active, consecutive := 0, goodCount := z.health.goodCount + 1 } }

namespace State

/-- Evidence that is no loss changes the slot's health part alone, with SLOT_CHANGE in every port where the state changes (R40). -/
theorem healthTaken_kept {s : State} {i : Fin 16} {h : Health} (kept : lossTo (s.slot i).health h = false) :
    s.healthTaken i h =
      (s.modSlot i fun x => { x with health := h }).modPorts fun c =>
        { c with events := c.events ||| if h.state = (s.slot i).health.state then 0 else 0x08 } := by
  unfold healthTaken
  rw [kept]
  have slot : (s.modSlot i fun x =>
      { x with
        health := h
        input := if lossTo x.health h then { x.input with state := .lost } else x.input }) =
      s.modSlot i fun x => { x with health := h } := modSlot_congr (by rw [kept]; rfl)
  rw [slot]
  exact if_neg Bool.false_ne_true

/-- A good report of a SUSPECT slot that is no IDENT's makes it ACTIVE again (R50). -/
theorem evidenceTaken_restores {s : State} {x : Exchange} {y : Reply} (hk : x.kind ≠ .ident)
    (suspect : (s.slot x.slot).health.state = .suspect) :
    s.evidenceTaken x (.success y) =
      { (s.modSlot x.slot (·.restored)).modPorts fun z => { z with events := z.events ||| 0x08 } with
        engine := .quiet x.rate .quietEntry } := by
  obtain ⟨-, restored⟩ := goodReportKeepsOrRestores (s.slot x.slot).config s.config x.kind y (s.slot x.slot).health hk
  unfold evidenceTaken
  rw [restored suspect]
  refine (healthTaken_kept (s := { s with engine := .quiet x.rate .quietEntry }) (i := x.slot) ?_).trans ?_
  · exact Bool.and_false _
  · have changes : ¬HealthState.active =
        (({ s with engine := .quiet x.rate .quietEntry } : State).slot x.slot).health.state := by
      show ¬HealthState.active = (s.slot x.slot).health.state
      rw [suspect]
      nofun
    rw [if_neg changes]
    rfl

end State

theorem evidenceChangesSlot : Clause.EvidenceChangesSlot := fun s i k d => s.healthEvidence_eq i k d

/-- A good cyclic reply of an ACTIVE slot outside the event-source set updates the record alone (R63). -/
theorem State.passContents_updates {u : State} {i : Fin 16} (y : Reply) (active : (u.slot i).health.state = .active)
    (event : u.config.eventSet.getLsbD i.val = false) :
    u.passContents .cyclic i (.success y) = u.recordUpdated i y :=
  ((u.imageGives_applyCyclic i y).2 (.inl active)).1 (.inr event)

theorem goodReplyRestoresSuspect : Clause.GoodReplyRestoresSuspect := by
  intro c x y s decides cyclic running mark suspect event
  refine ⟨_, State.exec_of_decides decides, ?_⟩
  rw [State.decideOutcome_running running mark, State.turnGives_iff, cyclic,
    State.evidenceTaken_restores (by rw [cyclic]; nofun) suspect]
  refine congrArg State.nextTurn (State.passContents_updates y ?_ ?_)
  · show ((s.modSlot x.slot (·.restored)).slot x.slot).health.state = .active
    rw [State.modSlot_slot_self]
    rfl
  · exact event

/-- Settles O27. -/
theorem healthEvidence : Obligations.HealthEvidence :=
  ⟨failureLeadsToSuspectOrLoss, probeOutcomes, goodReportKeepsOrRestores, reportsThatOnlyCount, evidenceChangesSlot,
    goodReplyRestoresSuspect⟩

/-! ### The cycle end -/

theorem InputRecord.cycleEnd_age {x : InputRecord} (limit : Byte) (h : x.state ≠ .never) :
    (x.cycleEnd limit).age = if x.updated = true ∨ x.age = 0xFF then x.age else x.age + 1 := by
  have age : (x.cycleEnd limit).age = if x.state ≠ .never ∧ x.updated = false then saturate x.age else x.age := rfl
  rw [age, saturate_byte]
  by_cases updated : x.updated = true
  · rw [if_neg (by simp [updated]), if_pos (.inl updated)]
  · rw [if_pos ⟨h, by simpa using updated⟩]
    by_cases full : x.age = 0xFF
    · rw [if_pos full, if_pos (.inr full), full]
    · rw [if_neg full, if_neg (not_or.mpr ⟨updated, full⟩)]

/-- Settles O28. -/
theorem cycleEndWorkOnSlot : Obligations.CycleEndWorkOnSlot := by
  intro x limit
  refine ⟨rfl, rfl, rfl, fun other => if_neg other, fun e long => ?_, fun e last => ?_, fun never => ?_,
    fun h => InputRecord.cycleEnd_age limit h, fun linked => ?_, fun lost => ?_, rfl, rfl, rfl, rfl, rfl, rfl⟩
  · exact (if_pos e).trans (if_neg (Nat.not_le.mpr long))
  · exact (if_pos e).trans (if_pos last.le)
  · show x.input.cycleEnd limit = _
    simp [InputRecord.cycleEnd, derivedState, never]
  · rcases linked with e | e
    · show derivedState x.input.state (x.input.cycleEnd limit).age limit = _
      rw [e]
      rfl
    · show derivedState x.input.state (x.input.cycleEnd limit).age limit = _
      rw [e]
      rfl
  · show derivedState x.input.state (x.input.cycleEnd limit).age limit = _
    rw [lost]
    rfl

/-! ### A slot's configuration -/

theorem setLow_eq (x : Half) (v : Byte) : setLow x v = x.extractLsb' 8 8 ++ v := by
  rw [← half_high_eq]
  rfl

theorem setHigh_eq (x : Half) (v : Byte) : setHigh x v = v ++ x.extractLsb' 0 8 := by
  rw [← half_low_eq]
  rfl

namespace State

theorem exec_slotConfigWrite {s : State} {p : Port} {a : Byte} {i : Fin 16} {f : ConfigField} (v : Byte)
    (h : s.Stands p true a) (ht : s.target p a = .image (.config i f)) :
    exec (.slotConfigWrite p v) s = .next ((s.writeSlotConfig p i f v).accessDone p true a 0) := by
  refine (writeAccess_mine (mine := (·.isSlotConfig)) h (by rw [ht]; rfl)).trans ?_
  rw [ht]
  rfl

theorem writeSlotConfig_taken {s : State} {p : Port} {i : Fin 16} {f : ConfigField} {v : Byte}
    (role : s.role p = .supervise) (off : (s.slot i).health.state = .disabled) (range : f.inRange v = true) :
    s.writeSlotConfig p i f v = s.modSlot i fun x => { x with config := x.config.put f v } :=
  if_pos ⟨role, off, range⟩

theorem writeSlotConfig_refused {s : State} {p : Port} {i : Fin 16} {f : ConfigField} {v : Byte}
    (h : s.role p ≠ .supervise ∨ (s.slot i).health.state ≠ .disabled ∨ f.inRange v = false) :
    s.writeSlotConfig p i f v = s.refuse p := by
  refine if_neg fun ⟨role, off, range⟩ => ?_
  rcases h with h | h | h
  · exact h role
  · exact h off
  · rw [range] at h
    cases h

end State

theorem ConfigField.address_inRange {v : Byte} (h : v.toNat ≤ 62) : ConfigField.address.inRange v = true :=
  decide_eq_true h

theorem ConfigField.inputLength_inRange {v : Byte} (h : v.toNat ≤ 16) : ConfigField.inputLength.inRange v = true :=
  decide_eq_true h

theorem ConfigField.outputLength_inRange {v : Byte} (h : v.toNat ≤ 16) : ConfigField.outputLength.inRange v = true :=
  decide_eq_true h

/-- A byte that the ranges of R35 leave out. -/
theorem ConfigField.not_inRange {f : ConfigField} {v : Byte}
    (h : (f = .address ∧ 63 ≤ v.toNat) ∨ ((f = .inputLength ∨ f = .outputLength) ∧ 17 ≤ v.toNat) ∨
      (f = .pollDivider ∧ (v = 0 ∨ 9 ≤ v.toNat))) : f.inRange v = false := by
  rcases h with ⟨rfl, high⟩ | ⟨rfl | rfl, high⟩ | ⟨rfl, rfl | high⟩
  · exact decide_eq_false (Nat.not_le.mpr high)
  · exact decide_eq_false (Nat.not_le.mpr high)
  · exact decide_eq_false (Nat.not_le.mpr high)
  · rfl
  · have above : ¬v.toNat ≤ 8 := by omega
    simp [ConfigField.inRange, above]

/-- Settles O29. -/
theorem slotConfigWriteTaken : Obligations.SlotConfigWriteTaken := by
  intro p v a i f s h ht
  rw [State.exec_slotConfigWrite v h ht]
  refine ⟨fun role off => ⟨?_, ?_, ?_, ?_, ?_, ?_, ?_, ?_⟩, fun refused => ?_⟩
  · rintro rfl range
    rw [State.writeSlotConfig_taken role off (ConfigField.address_inRange range)]
    rfl
  · rintro rfl
    rw [State.writeSlotConfig_taken role off rfl]
    rfl
  · rintro rfl
    rw [State.writeSlotConfig_taken role off rfl]
    simp only [SlotConfig.put, setLow_eq]
  · rintro rfl
    rw [State.writeSlotConfig_taken role off rfl]
    simp only [SlotConfig.put, setHigh_eq]
  · rintro rfl range
    rw [State.writeSlotConfig_taken role off (ConfigField.inputLength_inRange range)]
    rfl
  · rintro rfl range
    rw [State.writeSlotConfig_taken role off (ConfigField.outputLength_inRange range)]
    rfl
  · rintro rfl low high
    rw [State.writeSlotConfig_taken role off (by simp [ConfigField.inRange, low, high])]
    rfl
  · rintro k rfl
    rw [State.writeSlotConfig_taken role off rfl]
    rfl
  · have out : s.role p ≠ .supervise ∨ (s.slot i).health.state ≠ .disabled ∨ f.inRange v = false := by
      rcases refused with role | on | range
      · exact .inl role
      · exact .inr (.inl on)
      · exact .inr (.inr (ConfigField.not_inRange range))
    rw [State.writeSlotConfig_refused out]
    rfl

end Sys2Proof.Machine
end

section
/-! SUPPORT. Remote windows: O30, O31, O33 and O34. -/

namespace Sys2Proof.Machine

namespace State

/-! ### Stores to a window row -/

theorem exec_descriptorStore {s : State} {p : Port} {a : Byte} {w : Fin 4} {f : WindowField} (v : Byte)
    (h : s.Stands p true a) (ht : s.target p a = .page (.window w f)) (hf : f.isDescriptor = true) :
    exec (.descriptorStore p v) s = .next ((s.storeDescriptor p w f v).accessDone p true a 0) := by
  refine (writeAccess_mine (mine := (·.isDescriptor)) h (by rw [ht]; exact hf)).trans ?_
  rw [ht]
  cases f <;> first | rfl | cases hf

theorem storeDescriptor_refused {s : State} {p : Port} {w : Fin 4} {f : WindowField} {v : Byte}
    (h : (s.window p w).state.busy = true ∨ (f = .slot ∧ 16 ≤ v.toNat)) : s.storeDescriptor p w f v = s.refuse p := by
  unfold storeDescriptor
  rcases h with busy | high
  · exact if_pos busy
  · rw [if_pos high]
    exact ite_self _

theorem storeDescriptor_taken {s : State} {p : Port} {w : Fin 4} {f : WindowField} {v : Byte}
    (free : (s.window p w).state.busy = false) (low : f = .slot → v.toNat < 16) :
    s.storeDescriptor p w f v = s.modWindow p w (·.putDescriptor f v) := by
  have idle : ¬(s.window p w).state.busy = true := by
    rw [free]
    nofun
  exact (if_neg idle).trans (if_neg fun h => absurd (low h.1) (Nat.not_lt.mpr h.2))

end State

theorem Window.putDescriptor_slot {v : Byte} {i : Fin 16} (h : v.toNat = i.val) (x : Window) :
    x.putDescriptor .slot v = { x with slot := i } := by
  have slot : Fin.ofNat 16 v.toNat = i := Fin.ext (by simp only [Fin.ofNat]; omega)
  simp only [Window.putDescriptor, slot]

theorem descriptorStoreTaken : Clause.DescriptorStoreTaken := by
  intro p v a w f s h ht hf
  rw [State.exec_descriptorStore v h ht hf]
  refine ⟨fun refused => ?_, fun free => ?_⟩
  · have out : (s.window p w).state.busy = true ∨ (f = .slot ∧ 16 ≤ v.toNat) := by
      rcases refused with e | e | e | high
      · exact .inl ((WindowState.busy_iff _).mpr (.inl e))
      · exact .inl ((WindowState.busy_iff _).mpr (.inr (.inl e)))
      · exact .inl ((WindowState.busy_iff _).mpr (.inr (.inr e)))
      · exact .inr high
    rw [State.storeDescriptor_refused out]
    rfl
  have free := WindowState.not_busy_of_free free
  refine ⟨fun i hs hv => ?_, ?_, ?_, ?_, ?_⟩
  · subst hs
    rw [State.storeDescriptor_taken free fun _ => by omega]
    simp only [Window.putDescriptor_slot hv]
  · rintro rfl
    rw [State.storeDescriptor_taken (f := .mode) free nofun]
    rfl
  · rintro rfl
    rw [State.storeDescriptor_taken (f := .addressLow) free nofun]
    simp only [Window.putDescriptor, setLow_eq]
  · rintro rfl
    rw [State.storeDescriptor_taken (f := .addressHigh) free nofun]
    simp only [Window.putDescriptor, setHigh_eq]
  · rintro rfl
    rw [State.storeDescriptor_taken (f := .mask) free nofun]
    simp only [Window.putDescriptor, BitVec.setWidth_eq_extractLsb' (x := v) (show 4 ≤ 8 by decide)]

namespace State

theorem storeFlags_eq (s : State) (p : Port) (w : Fin 4) (v : Byte) :
    s.storeFlags p w v = s.modWindow p w fun x => { x with overrun := if v.getLsbD 0 then false else x.overrun } := by
  unfold storeFlags
  cases v.getLsbD 0
  · have same : s.modWindow p w (fun x => { x with overrun := x.overrun }) = s := by
      have windows : (s.port p).windows.set w (s.port p).windows[w] = (s.port p).windows := Vector.set_getElem_self _
      unfold modWindow modPort
      simp only [Fin.getElem_fin] at windows ⊢
      rw [windows]
      exact congrArg (fun x : PerPort PortContext => { s with ports := x }) (PerPort.set_get s.ports p)
    exact same.symm
  · rfl

/-- A store to a data byte of a window, as a row of its own or as a WRITE trigger (R99). -/
theorem exec_dataByteStore {s : State} {p : Port} {a : Byte} {w k : Fin 4} (v : Byte) (h : s.Stands p true a)
    (ht : s.target p a = .page (.window w (.data k))) :
    exec (.dataByteStore p v) s = .next ((s.storeDataByte p w k v).accessDone p true a 0) := by
  refine (writeAccess_mine (mine := (·.isWindowData)) h (by rw [ht]; rfl)).trans ?_
  rw [ht]
  rfl

theorem exec_writeTrigger {s : State} {p : Port} {a : Byte} {w k : Fin 4} (v : Byte) (h : s.Stands p true a)
    (ht : s.target p a = .page (.window w (.data k))) (write : (s.window p w).fetch = false)
    (mark : (s.window p w).mask.getLsbD k.val = true) :
    exec (.writeTrigger p v) s = .next ((s.storeDataByte p w k v).accessDone p true a 0) := by
  have mine : s.isWriteTrigger p (s.target p a) = true := by
    rw [ht, isWriteTrigger, write, mark]
    rfl
  refine (writeAccess_mine (mine := s.isWriteTrigger p) h mine).trans ?_
  rw [ht]
  rfl

/-- The window with the byte stored (R99). -/
def byteStored (s : State) (p : Port) (w k : Fin 4) (v : Byte) : State :=
  s.modWindow p w fun x => { x with assembly := x.assembly.set k v }

theorem byteStored_window (s : State) (p : Port) (w k : Fin 4) (v : Byte) :
    (s.byteStored p w k v).window p w = { s.window p w with assembly := (s.window p w).assembly.set k v } :=
  s.modWindow_window_self p w _

theorem storeDataByte_fills {s : State} {p : Port} {w k : Fin 4} (v : Byte)
    (h : (s.window p w).fetch = true ∨ (s.window p w).mask.getLsbD k.val = false) :
    s.storeDataByte p w k v = s.byteStored p w k v := by
  unfold storeDataByte
  refine if_neg ?_
  rcases h with h | h <;> rw [h] <;> simp

theorem storeDataByte_triggers {s : State} {p : Port} {w k : Fin 4} (v : Byte) (write : (s.window p w).fetch = false)
    (mark : (s.window p w).mask.getLsbD k.val = true) :
    s.storeDataByte p w k v = (s.byteStored p w k v).writeTrigger p w := by
  unfold storeDataByte
  rw [write, mark]
  rfl

end State

theorem windowFlagsWriteClearsOverrun : Clause.WindowFlagsWriteClearsOverrun := by
  intro p v a w s h ht
  refine (State.writeAccess_mine (mine := (·.isWindowFlags)) h (by rw [ht]; rfl)).trans ?_
  rw [ht, ← State.storeFlags_eq]
  rfl

theorem dataByteStoreFillsAssembly : Clause.DataByteStoreFillsAssembly := by
  intro p v a w k s h ht plain
  rw [State.exec_dataByteStore v h ht, State.storeDataByte_fills v plain]
  rfl

/-- Settles O30. -/
theorem windowStores : Obligations.WindowStores :=
  ⟨descriptorStoreTaken, windowFlagsWriteClearsOverrun, dataByteStoreFillsAssembly⟩

/-! ### The WRITE trigger -/

namespace State

theorem writeTrigger_role {s : State} {p : Port} {w : Fin 4} (free : (s.window p w).state.busy = false)
    (role : s.role p = .observe) : s.writeTrigger p w = s.failWindow p w .role 0 := by
  simp [writeTrigger, free, role]

theorem writeTrigger_not_owner {s : State} {p q : Port} {w : Fin 4} (free : (s.window p w).state.busy = false)
    (role : s.role p = .control) (hq : q ≠ p) (owner : (s.slot (s.window p w).slot).owner = some q) :
    s.writeTrigger p w = s.failWindow p w .notOwner 0 := by
  simp [writeTrigger, free, role, owner, hq]

/-- A WRITE trigger whose role and ownership checks pass goes on to health and room (R100). -/
theorem writeTrigger_passes {s : State} {p : Port} {w : Fin 4} (free : (s.window p w).state.busy = false)
    (may : s.role p = .supervise ∨ (s.role p = .control ∧
      ((s.slot (s.window p w).slot).owner = none ∨ (s.slot (s.window p w).slot).owner = some p))) :
    s.writeTrigger p w = s.triggerAccept p w (.write (s.window p w).assembly) := by
  rcases may with role | ⟨role, owner | owner⟩
  · simp [writeTrigger, free, role]
  · simp [writeTrigger, free, role, owner]
  · simp [writeTrigger, free, role, owner]

/-- A window that fails once the byte has been stored (R97, R99). -/
theorem byteStored_failWindow (s : State) (p : Port) (w k : Fin 4) (v : Byte) (c : Cause) :
    (s.byteStored p w k v).failWindow p w c 0 =
      (s.modWindow p w fun x =>
        { x with assembly := x.assembly.set k v, state := .failed, cause := c, detail := 0 }).modPort p fun y =>
          { y with events := y.events ||| 0x04 } := by
  rw [failWindow_eq, byteStored, modWindow_modWindow]

theorem byteStored_enqueue (s : State) (p : Port) (w k : Fin 4) (v : Byte) :
    (s.byteStored p w k v).enqueue p w (.write ((s.byteStored p w k v).window p w).assembly) =
      { s.modWindow p w fun x =>
          { x with
            assembly := x.assembly.set k v
            state := .queued
            cause := .none
            detail := 0
            address := if x.step then x.address + 4 else x.address } with
        queue := s.queue ++
          [⟨p, w, (s.window p w).slot, .write ((s.window p w).assembly.set k v), (s.window p w).address, 0⟩] } := by
  rw [enqueue_eq, byteStored_window, byteStored, modWindow_modWindow]
  rfl

end State

/-- Settles O31, by the trigger on the state with the byte stored: its window is as before, but for the assembly buffer. -/
theorem writeTriggerChecks : Obligations.WriteTriggerChecks := by
  intro c p v a w k s hc h ht write mark
  have stored : exec c s = .next (((s.byteStored p w k v).writeTrigger p w).accessDone p true a 0) := by
    rw [← State.storeDataByte_triggers v write mark]
    rcases hc with rfl | rfl
    · exact State.exec_writeTrigger v h ht write mark
    · exact State.exec_dataByteStore v h ht
  have same := s.byteStored_window p w k v
  have state : ((s.byteStored p w k v).window p w).state = (s.window p w).state := by rw [same]
  have slot : (s.byteStored p w k v).slot ((s.byteStored p w k v).window p w).slot = s.slot (s.window p w).slot := by
    rw [same]
    rfl
  rw [stored]
  refine ⟨fun busy => ?_, fun free => ?_⟩
  · rw [State.writeTrigger_busy (by rw [state]; exact (WindowState.busy_iff _).mpr busy), State.byteStored,
      State.modWindow_modWindow]
  have free : ((s.byteStored p w k v).window p w).state.busy = false := by
    rw [state]
    exact WindowState.not_busy_of_free free
  have passes (may : s.role p = .supervise ∨ (s.role p = .control ∧
      ((s.slot (s.window p w).slot).owner = none ∨ (s.slot (s.window p w).slot).owner = some p))) :=
    State.writeTrigger_passes (s := s.byteStored p w k v) free (by rw [slot]; exact may)
  refine ⟨fun cause refused => ?_, fun may linked room => ?_⟩
  · rw [← State.byteStored_failWindow]
    rcases refused with ⟨role, rfl⟩ | ⟨role, ⟨q, hq, owner⟩, rfl⟩ | ⟨may, ⟨off, off', rfl⟩ | ⟨linked, full, rfl⟩⟩
    · rw [State.writeTrigger_role free role]
    · rw [State.writeTrigger_not_owner free role hq (by rw [slot]; exact owner)]
    · rw [passes may, State.triggerAccept_not_active (s := s.byteStored p w k v) _
        (by rw [slot]; exact (HealthState.not_linked_iff _).mpr ⟨off, off'⟩)]
    · rw [passes may, State.triggerAccept_full (s := s.byteStored p w k v) _
        (by rw [slot]; exact (HealthState.linked_iff _).mpr linked) full]
  · rw [passes may, State.triggerAccept_taken (s := s.byteStored p w k v) _
      (by rw [slot]; exact (HealthState.linked_iff _).mpr linked) room, State.byteStored_enqueue]

/-! ### CANCEL -/

namespace State

theorem cancelWindow_modCommand (s : State) (p q : Port) (w : Fin 4) (g : CommandSlot → CommandSlot) :
    (s.modCommand q g).cancelWindow p w = (s.cancelWindow p w).modCommand q g := by
  unfold cancelWindow
  rw [modCommand_window]
  cases (s.window p w).state with
  | queued =>
    exact failWindow_modCommand { s with queue := s.queue.filter fun r => !(r.port = p && r.window = w) } q p w
      .cancelled 0 g
  | inFlight => exact modWindow_modCommand s q p w _ g
  | _ => rfl

theorem exec_cancel {s : State} {p : Port} {w : Fin 4} (hc : s.CanCommand p) (hw : (s.command p).arg0.toNat = w.val) :
    exec (.cancel p) s =
      .next ((s.cancelWindow p w).commandDone p 0x0C .done ((s.cancelWindow p w).window p w).state.code) := by
  refine cmdWrite_changed hc ?_
  have names : windowOf ((s.modCommand p fun c => { c with code := 0x0C }).command p).arg0 = some w :=
    windowOf_of_names (by rwa [modCommand_command_self])
  rw [cancelAnswer, names]
  dsimp only
  rw [cancelWindow_modCommand, modCommand_window]

theorem cancelWindow_queued {s : State} {p : Port} {w : Fin 4} (h : (s.window p w).state = .queued) :
    s.cancelWindow p w =
      ({ s with queue := s.queue.filter fun r => !(r.port = p && r.window = w) } : State).failWindow p w .cancelled 0 := by
  simp only [cancelWindow, h]

theorem cancelWindow_inFlight {s : State} {p : Port} {w : Fin 4} (h : (s.window p w).state = .inFlight) :
    s.cancelWindow p w = s.modWindow p w (·.enter .cancelling) := by simp only [cancelWindow, h]

theorem cancelWindow_kept {s : State} {p : Port} {w : Fin 4}
    (h : (s.window p w).state ≠ .queued ∧ (s.window p w).state ≠ .inFlight) : s.cancelWindow p w = s := by
  unfold cancelWindow
  split
  · next e => exact absurd e h.1
  · next e => exact absurd e h.2
  all_goals rfl

/-- CANCEL of a window with no request to end answers its state (R112). -/
theorem exec_cancel_kept {s : State} {p : Port} {w : Fin 4} (hc : s.CanCommand p) (hw : (s.command p).arg0.toNat = w.val)
    (h : (s.window p w).state ≠ .queued ∧ (s.window p w).state ≠ .inFlight) :
    exec (.cancel p) s = .next (s.commandDone p 0x0C .done (s.window p w).state.code) := by
  rw [exec_cancel hc hw, cancelWindow_kept h]

end State

/-- Settles O33. -/
theorem cancelByWindowState : Obligations.CancelByWindowState := by
  intro p w s hc hw
  refine ⟨fun e => ?_, fun e => ?_, fun e => ?_, fun e => ?_, fun e => ?_, fun e => ?_⟩
  · have gone : (fun r : Request => decide ¬(r.port = p ∧ r.window = w)) = fun r => !(r.port = p && r.window = w) := by
      funext r
      simp
    rw [State.exec_cancel hc hw, State.cancelWindow_queued e, State.failWindow_window_self, gone]
    rfl
  · rw [State.exec_cancel hc hw, State.cancelWindow_inFlight e, State.modWindow_window_self]
    rfl
  all_goals
    rw [State.exec_cancel_kept hc hw (by rw [e]; exact ⟨nofun, nofun⟩), e]
    rfl

/-! ### Reports at the window unit -/

namespace State

theorem outFailed_eq (s : State) (r : Request) (c : Cause) (d : Byte) :
    ({ s with out := none } : State).failWindow r.port r.window c d = s.outFailed r c d := rfl

/-- A report of a READ or WRITE whose window is IN_FLIGHT (R106). -/
theorem windowReport_success {s : State} {r : Request} (out : s.out = some r)
    (h : (s.window r.port r.window).state = .inFlight) (y : Reply) :
    s.windowReport (.success y) = ({ s with out := none } : State).goodReply r y.busy y.payload := by
  have window : (({ s with out := none } : State).window r.port r.window).state = .inFlight := h
  simp only [windowReport, out, window]

theorem windowReport_failed {s : State} {r : Request} (out : s.out = some r)
    (h : (s.window r.port r.window).state = .inFlight) (f : LinkFailure) :
    s.windowReport (.failed f) = s.outFailed r (.link f) 0 := by
  have window : (({ s with out := none } : State).window r.port r.window).state = .inFlight := h
  simp only [windowReport, out, window, outFailed_eq]

theorem windowReport_cancelling {s : State} {r : Request} (out : s.out = some r)
    (h : (s.window r.port r.window).state = .cancelling) (d : Decision) :
    s.windowReport d = ({ s with out := none } : State).endCancelling r.port r.window := by
  have window : (({ s with out := none } : State).window r.port r.window).state = .cancelling := h
  simp only [windowReport, out, window]

theorem goodReply_rejected {s : State} {r : Request} {payload : List Byte} (h : payload.getD 0 0 ≠ 0) :
    s.goodReply r false payload = s.failWindow r.port r.window .rejected (payload.getD 0 0) :=
  if_pos h

theorem goodReply_read {s : State} {r : Request} {payload : List Byte} (h : payload.getD 0 0 = 0)
    (kind : r.kind = .read) :
    s.goodReply r false payload =
      (s.modWindow r.port r.window fun w => { w with result := replyData payload }).finishWindow r.port r.window := by
  refine (if_neg (not_not.mpr h)).trans ?_
  rw [kind]

theorem goodReply_write {s : State} {r : Request} {payload : List Byte} {d : Bytes4} (h : payload.getD 0 0 = 0)
    (kind : r.kind = .write d) : s.goodReply r false payload = s.finishWindow r.port r.window := by
  refine (if_neg (not_not.mpr h)).trans ?_
  rw [kind]

theorem goodReply_busy (s : State) (r : Request) (payload : List Byte) : s.goodReply r true payload = s.rejoin r := rfl

theorem rejoin_third {s : State} {r : Request} (h : r.busy = 2) :
    s.rejoin r = s.failWindow r.port r.window .busy 0 := by
  have third : r.busy + 1 ≥ Config.busyLimit := by rw [h]; exact Nat.le_refl 3
  exact if_pos third

theorem rejoin_left {s : State} {r : Request} (h : r.busy < 2) (left : (s.slot r.slot).health.state.linked = false) :
    s.rejoin r = s.failWindow r.port r.window .slotLeft 0 := by
  have more : ¬r.busy + 1 ≥ Config.busyLimit := by unfold Config.busyLimit; omega
  simp [rejoin, more, left]

theorem rejoin_full {s : State} {r : Request} (h : r.busy < 2) (linked : (s.slot r.slot).health.state.linked = true)
    (full : 8 ≤ s.queue.length) : s.rejoin r = s.failWindow r.port r.window .queueFull 0 := by
  have more : ¬r.busy + 1 ≥ Config.busyLimit := by unfold Config.busyLimit; omega
  have none : s.queue.length ≥ Config.queueDepth := full
  simp [rejoin, more, linked, none]

theorem rejoin_queued {s : State} {r : Request} (h : r.busy < 2) (linked : (s.slot r.slot).health.state.linked = true)
    (room : s.queue.length < 8) :
    s.rejoin r =
      { s.modWindow r.port r.window fun w => { w with state := .queued, cause := .none, detail := 0 } with
        queue := s.queue ++ [{ r with busy := r.busy + 1 }] } := by
  have more : ¬r.busy + 1 ≥ Config.busyLimit := by unfold Config.busyLimit; omega
  have some : ¬s.queue.length ≥ Config.queueDepth := Nat.not_le.mpr room
  simp [rejoin, more, linked, some]
  rfl

end State

theorem goodReportAtWindow : Clause.GoodReportAtWindow := by
  intro s r y out h
  refine ⟨fun free code => ?_, fun free code kind => ?_, fun d free code kind => ?_, fun busy few active room => ?_,
    fun busy third => ?_⟩
  · rw [State.windowReport_success out h, free, State.goodReply_rejected code, State.failWindow_eq]
  · rw [State.windowReport_success out h, free, State.goodReply_read code kind, State.finishWindow_eq,
      State.modWindow_modWindow]
    rfl
  · rw [State.windowReport_success out h, free, State.goodReply_write code kind, State.finishWindow_eq]
  · rw [State.windowReport_success out h, busy, State.goodReply_busy]
    exact State.rejoin_queued few ((HealthState.linked_iff _).mpr (.inl active)) room
  · rw [State.windowReport_success out h, busy, State.goodReply_busy, State.rejoin_third third, State.failWindow_eq]

theorem otherReportsAtWindow : Clause.OtherReportsAtWindow := by
  intro s r out
  refine ⟨fun h => ⟨State.windowReport_failed out h, fun y busy few => ⟨fun off off' => ?_, fun linked => ⟨fun full => ?_,
    fun room => ?_⟩⟩⟩, fun h d => ?_⟩
  · rw [State.windowReport_success out h, busy, State.goodReply_busy]
    exact State.rejoin_left few ((HealthState.not_linked_iff _).mpr ⟨off, off'⟩)
  · rw [State.windowReport_success out h, busy, State.goodReply_busy]
    exact State.rejoin_full few ((HealthState.linked_iff _).mpr linked) full
  · rw [State.windowReport_success out h, busy, State.goodReply_busy]
    exact State.rejoin_queued few ((HealthState.linked_iff _).mpr linked) room
  · obtain ⟨-, cancelling⟩ := s.outEnds_dropOut .none r out
    have same : s.windowReport d = s.dropOut .none := by
      have window : (({ s with out := none } : State).window r.port r.window).state = .cancelling := h
      rw [State.windowReport_cancelling out h]
      simp only [State.dropOut, out, window]
    rw [same]
    exact cancelling h

theorem reportReachesWindow : Clause.ReportReachesWindow := by
  intro c x d s decides kind running mark
  refine ⟨_, State.exec_of_decides decides, ?_⟩
  rw [State.decideOutcome_running running mark, State.turnGives_iff]
  rcases kind with kind | kind <;> rw [kind] <;> rfl

/-- Settles O34. -/
theorem goodReplyEndsWindow : Obligations.GoodReplyEndsWindow :=
  ⟨goodReportAtWindow, otherReportsAtWindow, reportReachesWindow⟩

end Sys2Proof.Machine
end

section
/-! SUPPORT. Capture requests and cursors: O36 and O37. -/

namespace Sys2Proof.Machine

/-! ### What makes a request, and what becomes of it -/

theorem PinEdge.not_selects {e : PinEdge} {level : Level}
    (h : e = .off ∨ (e = .rising ∧ level = .low) ∨ (e = .falling ∧ level = .high)) : e.selects level = false := by
  rcases h with rfl | ⟨rfl, rfl⟩ | ⟨rfl, rfl⟩ <;> rfl

theorem PinEdge.selects_of {e : PinEdge} {level : Level}
    (h : e = .both ∨ (e = .rising ∧ level = .high) ∨ (e = .falling ∧ level = .low)) : e.selects level = true := by
  rcases h with rfl | ⟨rfl, rfl⟩ | ⟨rfl, rfl⟩ <;> rfl

namespace State

/-- CAPT at the level an edge brings (R118). -/
def captAt (s : State) (level : Level) : State := { s with pins := { s.pins with capt := level } }

theorem exec_captEdge_ignored {s : State} {level : Level} (h : s.config.pinEdge.selects level = false) :
    exec (.captEdge level) s = .next (s.captAt level).settle := by
  refine congrArg finish (if_neg (c := s.config.pinEdge.selects level = true) ?_)
  rw [h]
  nofun

theorem exec_captEdge_taken {s : State} {level : Level} (h : s.config.pinEdge.selects level = true) :
    exec (.captEdge level) s = .next ((s.captAt level).takeCapture .pin).settle :=
  congrArg finish (if_pos (c := s.config.pinEdge.selects level = true) h)

theorem captureFate_dropped {s : State} (h : ¬s.HasSubscriber) : s.captureFate = .dropped := by
  simp [captureFate, (not_subscribed_iff s).mpr h]

theorem captureFate_lost {s : State} (h : s.HasSubscriber) (full : 8 ≤ s.capture.ring.length) : s.captureFate = .lost := by
  have none : s.capture.ring.length ≥ Config.ringDepth := full
  simp [captureFate, (subscribed_iff s).mpr h, none]

theorem captureFate_recorded {s : State} (h : s.HasSubscriber) (room : s.capture.ring.length < 8) :
    s.captureFate = .recorded := by
  have some : ¬s.capture.ring.length ≥ Config.ringDepth := Nat.not_le.mpr room
  simp [captureFate, (subscribed_iff s).mpr h, some]

theorem captureFate_modCommand (s : State) (p : Port) (f : CommandSlot → CommandSlot) :
    (s.modCommand p f).captureFate = s.captureFate := by cases p <;> rfl

theorem exec_captureNow {s : State} {p : Port} (hc : s.CanCommand p) :
    exec (.captureNow p) s =
      .next ((s.takeCapture (.command p)).commandDone p 0x0B .done s.captureFate.code) := by
  refine cmdWrite_changed hc ?_
  rw [captureNowAnswer, takeCapture_modCommand, captureFate_modCommand]

end State

theorem captEdgeMakesPinRequest : Clause.CaptEdgeMakesPinRequest := by
  intro level s
  refine ⟨s.captAt level, rfl, fun h => ?_, fun selected h => ?_⟩
  · by_cases selected : s.config.pinEdge.selects level = true
    · have none : ¬s.HasSubscriber := by
        rcases h with h | h | h | h
        · rw [PinEdge.not_selects (.inl h)] at selected
          cases selected
        · rw [PinEdge.not_selects (.inr (.inl h))] at selected
          cases selected
        · rw [PinEdge.not_selects (.inr (.inr h))] at selected
          cases selected
        · exact h
      rw [State.exec_captEdge_taken selected, State.takeCapture_dropped (s := s.captAt level) _ none]
    · exact State.exec_captEdge_ignored (by simpa using selected)
  · rw [State.exec_captEdge_taken (PinEdge.selects_of selected)]
    refine ⟨fun full => ?_, fun room => ?_⟩
    · rw [State.takeCapture_lost (s := s.captAt level) _ h full]
    · rw [State.takeCapture_recorded (s := s.captAt level) _ h room]

theorem captureNowReportsFate : Clause.CaptureNowReportsFate := by
  intro p s hc
  rw [State.exec_captureNow hc]
  refine ⟨fun none => ?_, fun h full => ?_, fun h room => ?_⟩
  · rw [State.takeCapture_dropped _ none, State.captureFate_dropped none]
    rfl
  · rw [State.takeCapture_lost _ h full, State.captureFate_lost h full]
    rfl
  · rw [State.takeCapture_recorded _ h room, State.captureFate_recorded h room]
    rfl

theorem timerCaptureAtMultiples : Clause.TimerCaptureAtMultiples := by
  intro s
  refine ⟨fun h => ?_, fun on multiple h => ?_⟩
  · by_cases due : s.config.timerDivider ≠ 0 ∧ s.sched.cycle.toNat % s.config.timerDivider.toNat = 0
    · have none : ¬s.HasSubscriber := by
        rcases h with h | h | h
        · exact absurd h due.1
        · exact absurd due.2 h
        · exact h
      rw [State.timerCapture, if_pos due, State.takeCapture_dropped _ none]
    · exact if_neg due
  · rw [State.timerCapture, if_pos ⟨on, multiple⟩]
    exact ⟨State.takeCapture_lost _ h, State.takeCapture_recorded _ h⟩

theorem stationCaptureFollowsUpdate : Clause.StationCaptureFollowsUpdate := by
  intro s u i r linked evt marked hu
  have updated : u = s.recordUpdated i r := by
    rw [hu, State.recordUpdated, evt]
  obtain ⟨dropped, taken⟩ := ((s.imageGives_applyCyclic i r).2 linked).2 evt marked
  rw [updated]
  exact ⟨dropped, fun h => (taken h).1, fun h => (taken h).2⟩

namespace State

/-- A cycle starts at an expiry of the timer in RUNNING (R26). -/
theorem exec_cycleTimerExpiry_starts {s : State} (running : s.sched.link = .running) (ended : s.sched.inCycle = false) :
    exec .cycleTimerExpiry s = .next s.startCycle.settle := by
  show execCycleTimerExpiry s = _
  rw [execCycleTimerExpiry, running, ended]
  rfl

theorem beginCycle_eq_planFixed (s : State) :
    s.beginCycle = ((s.modSched fun c => { c with cycle := c.cycle + 1 }).timerCapture).planFixed := by
  simp only [beginCycle, planFixed, newPlan_eq_dueSlots]

/-- A good report of an ACTIVE or SUSPECT slot that is no IDENT's leaves the slot ACTIVE (R49, R50). -/
theorem evidenceTaken_active {s : State} {x : Exchange} {y : Reply} (hk : x.kind ≠ .ident)
    (linked : (s.slot x.slot).health.state = .active ∨ (s.slot x.slot).health.state = .suspect) :
    ((s.evidenceTaken x (.success y)).slot x.slot).health.state = .active := by
  obtain ⟨keeps, restores⟩ :=
    goodReportKeepsOrRestores (s.slot x.slot).config s.config x.kind y (s.slot x.slot).health hk
  have active : ((s.slot x.slot).health.report (s.slot x.slot).config s.config x.kind (.success y)).state = .active := by
    rcases linked with e | e
    · rw [keeps e]
      exact e
    · rw [restores e]
  unfold evidenceTaken
  generalize (s.slot x.slot).health.report (s.slot x.slot).config s.config x.kind (.success y) = h at active
  have kept : lossTo (s.slot x.slot).health h = false := by simp [lossTo, active]
  rw [healthTaken_kept (s := { s with engine := .quiet x.rate .quietEntry }) kept, modPorts_slot, modSlot_slot_self]
  exact active

theorem evidenceTaken_hasSubscriber (s : State) (x : Exchange) (d : Decision) :
    (s.evidenceTaken x d).HasSubscriber ↔ s.HasSubscriber :=
  exists_congr fun p => by rw [evidenceTaken, healthTaken_cursor]; rfl

end State

theorem cycleStartTakesTimerCapture : Clause.CycleStartTakesTimerCapture := by
  intro s u running ended on multiple hu
  obtain ⟨-, taken⟩ := timerCaptureAtMultiples u
  have divider : u.config = s.config := by rw [hu]; rfl
  have cycle : u.sched.cycle = s.sched.cycle + 1 := by rw [hu]; rfl
  have ring : u.capture = s.capture := by rw [hu]; rfl
  have subscribers : u.HasSubscriber ↔ s.HasSubscriber := by rw [hu]; rfl
  rw [divider, cycle, ring, subscribers] at taken
  refine ⟨u.timerCapture, _, State.exec_cycleTimerExpiry_starts running ended, ?_, fun none => ?_, fun h full => ?_,
    fun h room => ?_⟩
  · rw [State.turnGives_iff, State.startCycle, State.beginCycle_eq_planFixed, hu]
  · exact (timerCaptureAtMultiples u).1 (.inr (.inr (by rwa [subscribers])))
  · exact (taken on multiple h).1 full
  · exact (taken on multiple h).2 room

theorem replyTakesStationCapture : Clause.ReplyTakesStationCapture := by
  intro c x y s u decides cyclic running mark linked evt marked hu
  have active := State.evidenceTaken_active (y := y) (by rw [cyclic]; nofun) linked
  have event : (s.evidenceTaken x (.success y)).config.eventSet.getLsbD x.slot.val = true := by
    rw [State.evidenceTaken, State.healthTaken_config]
    exact marked
  have ring : u.capture = s.capture := by
    rw [hu]
    exact State.healthTaken_capture _ _ _
  have subscribers : u.HasSubscriber ↔ s.HasSubscriber := by
    rw [hu]
    exact State.evidenceTaken_hasSubscriber s x _
  obtain ⟨dropped, taken⟩ :=
    (((s.evidenceTaken x (.success y)).imageGives_applyCyclic x.slot y).2 (.inl active)).2 evt event
  rw [← hu, subscribers, ring] at taken
  rw [← hu, subscribers] at dropped
  refine ⟨(s.evidenceTaken x (.success y)).applyCyclic x.slot y, _, State.exec_of_decides decides, ?_, dropped,
    fun h => (taken h).1, fun h => (taken h).2⟩
  rw [State.decideOutcome_running running mark, State.turnGives_iff, cyclic]
  rfl

/-- Settles O36. -/
theorem captureRequests : Obligations.CaptureRequests :=
  ⟨captEdgeMakesPinRequest, captureNowReportsFate, timerCaptureAtMultiples, stationCaptureFollowsUpdate,
    cycleStartTakesTimerCapture, replyTakesStationCapture⟩

/-! ### Cursors and the ring -/

namespace State

theorem mostUnread_le {s t : State} (h : ∀ q, (t.port q).unread ≤ (s.port q).unread) : t.mostUnread ≤ s.mostUnread := by
  obtain ⟨q, hq⟩ := t.mostUnread_attained
  rw [← hq]
  exact (h q).trans (s.unread_le_mostUnread q)

/-- Reclaim of a ring no shorter than the longest run of unread records frees all but that run (R132). -/
theorem reclaim_gives {s : State} (h : s.mostUnread ≤ s.capture.ring.length) :
    ∃ n, s.reclaim.capture =
        { s.capture with ring := s.capture.ring.drop n, lost := if s.subscribed then s.capture.lost else 0 } ∧
      s.capture.ring.length - n = s.mostUnread :=
  ⟨s.capture.ring.length - s.mostUnread, rfl, Nat.sub_sub_self h⟩

/-- What becomes of the ring once port `p` reads no record more: `n` records are freed and the lost counter is `m` (R132). -/
def FreedWithout (s : State) (p : Port) (n : Nat) (m : Byte) : Prop :=
  (∀ q, q ≠ p → (s.port q).unread ≤ s.capture.ring.length - n) ∧
    (n < s.capture.ring.length → ∃ q, q ≠ p ∧ (s.port q).unread = s.capture.ring.length - n) ∧
    ((∃ q, q ≠ p ∧ (s.port q).cursor ≠ none) → m = s.capture.lost) ∧
    ((∀ q, q ≠ p → (s.port q).cursor = none) → m = 0 ∧ s.capture.ring.length ≤ n)

/-- The end of a subscription keeps the records that some other port has unread (R127). -/
theorem unsubscribe_frees {s : State} {p : Port} (sound : s.RingSound) (h : (s.port p).cursor ≠ none) :
    ∃ n m, (s.unsubscribe p).capture = { s.capture with ring := s.capture.ring.drop n, lost := m } ∧
      s.FreedWithout p n m := by
  obtain ⟨-, length⟩ := sound
  have some : (s.port p).cursor.isSome = true := Option.isSome_iff_ne_none.mpr h
  obtain ⟨t, ht⟩ : ∃ t, t = s.modPort p fun c => { c with cursor := none } := ⟨_, rfl⟩
  have gone : (t.port p).cursor = none := by rw [ht, modPort_port_self]
  have other {q : Port} (hq : q ≠ p) : t.port q = s.port q := by rw [ht, modPort_port_ne _ _ hq]
  have capture : t.capture = s.capture := by rw [ht]; rfl
  have fewer : ∀ q, (t.port q).unread ≤ (s.port q).unread := fun q => by
    by_cases hq : q = p
    · rw [hq, unread_of_not_subscribed gone]
      exact Nat.zero_le _
    · rw [other hq]
  obtain ⟨n, e, left⟩ := reclaim_gives (s := t) (by rw [capture, length]; exact mostUnread_le fewer)
  rw [capture] at e left
  have ends : s.unsubscribe p = t.reclaim := by rw [unsubscribe, if_pos some, ← ht]
  refine ⟨n, if t.subscribed then s.capture.lost else 0, (congrArg State.capture ends).trans e, fun q hq => ?_,
    fun some => ?_, fun hs => ?_, fun hs => ?_⟩
  · rw [left, ← other hq]
    exact t.unread_le_mostUnread q
  · obtain ⟨q, hq⟩ := t.mostUnread_attained
    have reads : q ≠ p := by
      rintro rfl
      rw [unread_of_not_subscribed gone] at hq
      omega
    exact ⟨q, reads, by rw [left, ← hq, other reads]⟩
  · obtain ⟨q, hq, cursor⟩ := hs
    exact if_pos ((subscribed_iff t).mpr ⟨q, by rwa [other hq]⟩)
  · have none : ∀ q, (t.port q).cursor = none := fun q => by
      by_cases hq : q = p
      · rw [hq, gone]
      · rw [other hq, hs q hq]
    have silent : t.subscribed = false := (not_subscribed_iff t).mpr fun ⟨q, hq⟩ => hq (none q)
    obtain ⟨q, hq⟩ := t.mostUnread_attained
    rw [unread_of_not_subscribed (none q)] at hq
    exact ⟨by rw [silent]; rfl, by omega⟩

theorem unsubscribe_eq {s : State} {p : Port} (h : (s.port p).cursor ≠ none) :
    s.unsubscribe p =
      { s.modPort p fun c => { c with cursor := none } with capture := (s.unsubscribe p).capture } := by
  have some : (s.port p).cursor.isSome = true := Option.isSome_iff_ne_none.mpr h
  rw [unsubscribe, if_pos some]
  rfl

theorem subscribe_modCommand (s : State) (p : Port) (g : CommandSlot → CommandSlot) :
    (s.modCommand p g).subscribe p = (s.subscribe p).modCommand p g := by
  unfold subscribe
  rw [modCommand, modPort_port_self]
  split
  · rfl
  · exact modPort_modCommand s p p _ g (fun _ _ => rfl) fun _ => rfl

theorem reclaim_modCommand (s : State) (p : Port) (g : CommandSlot → CommandSlot) :
    (s.modCommand p g).reclaim = s.reclaim.modCommand p g := by cases p <;> rfl

theorem unsubscribe_modCommand (s : State) (p : Port) (g : CommandSlot → CommandSlot) :
    (s.modCommand p g).unsubscribe p = (s.unsubscribe p).modCommand p g := by
  have cleared : (s.modCommand p g).modPort p (fun c => { c with cursor := none }) =
      (s.modPort p fun c => { c with cursor := none }).modCommand p g :=
    modPort_modCommand s p p _ g (fun _ _ => rfl) fun _ => rfl
  have cursor : ((s.modCommand p g).port p).cursor = (s.port p).cursor := by rw [modCommand, modPort_port_self]
  unfold unsubscribe
  rw [cursor, cleared, reclaim_modCommand]
  split <;> rfl

theorem modCommand_cursor (s : State) (p : Port) (g : CommandSlot → CommandSlot) :
    ((s.modCommand p g).port p).cursor = (s.port p).cursor := by rw [modCommand, modPort_port_self]

theorem exec_subscribe {s : State} {p : Port} (hc : s.CanCommand p) :
    exec (.subscribe p) s =
      .next ((s.subscribe p).commandDone p 0x08 .done (whether (!(s.port p).cursor.isSome))) :=
  cmdWrite_changed hc (by rw [subscribeAnswer, subscribe_modCommand, modCommand_cursor])

theorem exec_unsubscribe {s : State} {p : Port} (hc : s.CanCommand p) :
    exec (.unsubscribe p) s =
      .next ((s.unsubscribe p).commandDone p 0x09 .done (whether (s.port p).cursor.isSome)) :=
  cmdWrite_changed hc (by rw [unsubscribeAnswer, unsubscribe_modCommand, modCommand_cursor])

end State

theorem subscribeAndUnsubscribe : Clause.SubscribeAndUnsubscribe := by
  intro p s hc sound
  rw [State.exec_subscribe hc, State.exec_unsubscribe hc]
  refine ⟨fun none => ?_, fun h => ?_, fun none => ?_, fun h => ?_⟩
  · rw [State.subscribe, none]
    rfl
  · have some : (s.port p).cursor.isSome = true := Option.isSome_iff_ne_none.mpr h
    rw [State.subscribe, if_pos some, some]
    rfl
  · rw [State.unsubscribe, none]
    rfl
  · have some : (s.port p).cursor.isSome = true := Option.isSome_iff_ne_none.mpr h
    obtain ⟨n, m, capture, freed⟩ := State.unsubscribe_frees sound h
    refine ⟨n, m, ?_, freed⟩
    rw [State.unsubscribe_eq h, capture, some]
    rfl

namespace State

theorem recordAt_of_cursor {s : State} {p : Port} {k : Cursor} (cursor : (s.port p).cursor = some k)
    (unread : 0 < k.unread) : s.recordAt p = s.capture.ring[s.capture.ring.length - k.unread]? := by
  have count : (s.port p).unread = k.unread := by rw [PortContext.unread, cursor]
  rw [recordAt, count, if_pos unread]

theorem recordAt_none {s : State} {p : Port} {k : Cursor} (cursor : (s.port p).cursor = some k) (unread : k.unread = 0) :
    s.recordAt p = none := by
  have count : (s.port p).unread = k.unread := by rw [PortContext.unread, cursor]
  rw [recordAt, count, unread]
  rfl

theorem recordAt_modCommand (s : State) (p : Port) (g : CommandSlot → CommandSlot) :
    (s.modCommand p g).recordAt p = s.recordAt p := by cases p <;> rfl

theorem advancePast_modCommand (s : State) (p : Port) (r : CaptureRecord) (g : CommandSlot → CommandSlot) :
    (s.modCommand p g).advancePast p r = (s.advancePast p r).modCommand p g := by
  have moved : (s.modCommand p g).modPort p (fun c => { c with cursor := some ⟨r.sequence + 1, c.unread - 1⟩ }) =
      (s.modPort p fun c => { c with cursor := some ⟨r.sequence + 1, c.unread - 1⟩ }).modCommand p g :=
    modPort_modCommand s p p _ g (fun _ _ => rfl) fun _ => rfl
  rw [advancePast, moved, reclaim_modCommand]
  rfl

/-- ADVANCE past the record at the cursor: the records that no port has unread any more are freed (R128, R132). -/
theorem advancePast_frees {s : State} {p : Port} {k : Cursor} (r : CaptureRecord) (sound : s.RingSound)
    (cursor : (s.port p).cursor = some k) :
    ∃ n, s.advancePast p r =
        { s.modPort p fun c => { c with cursor := some ⟨r.sequence + 1, k.unread - 1⟩ } with
          capture := { s.capture with ring := s.capture.ring.drop n } } ∧
      (∀ q, q ≠ p → (s.port q).unread ≤ s.capture.ring.length - n) ∧ k.unread - 1 ≤ s.capture.ring.length - n ∧
      (n < s.capture.ring.length →
        k.unread - 1 = s.capture.ring.length - n ∨ ∃ q, q ≠ p ∧ (s.port q).unread = s.capture.ring.length - n) := by
  obtain ⟨-, length⟩ := sound
  have count : (s.port p).unread = k.unread := by rw [PortContext.unread, cursor]
  obtain ⟨t, ht⟩ : ∃ t, t = s.modPort p fun c => { c with cursor := some ⟨r.sequence + 1, k.unread - 1⟩ } := ⟨_, rfl⟩
  have moved : t = s.modPort p fun c => { c with cursor := some ⟨r.sequence + 1, c.unread - 1⟩ } := by
    rw [ht]
    exact modPort_congr (by rw [count])
  have one : (t.port p).unread = k.unread - 1 := by rw [ht, modPort_port_self]; rfl
  have other {q : Port} (hq : q ≠ p) : t.port q = s.port q := by rw [ht, modPort_port_ne _ _ hq]
  have capture : t.capture = s.capture := by rw [ht]; rfl
  have fewer : ∀ q, (t.port q).unread ≤ (s.port q).unread := fun q => by
    by_cases hq : q = p
    · rw [hq, one, count]
      exact Nat.sub_le _ _
    · rw [other hq]
  have subscribed : t.subscribed = true := (subscribed_iff t).mpr ⟨p, by rw [ht, modPort_port_self]; nofun⟩
  obtain ⟨n, e, left⟩ := reclaim_gives (s := t) (by rw [capture, length]; exact mostUnread_le fewer)
  rw [capture, subscribed] at e
  rw [capture] at left
  refine ⟨n, ?_, fun q hq => ?_, ?_, fun some => ?_⟩
  · rw [advancePast, ← moved, ← ht]
    exact congrArg (fun x : Capture => { t with capture := x }) e
  · rw [left, ← other hq]
    exact t.unread_le_mostUnread q
  · rw [left, ← one]
    exact t.unread_le_mostUnread p
  · obtain ⟨q, hq⟩ := t.mostUnread_attained
    by_cases own : q = p
    · left
      rw [left, ← hq, own, one]
    · exact .inr ⟨q, own, by rw [left, ← hq, other own]⟩

theorem advanceAnswer_unsubscribed {s : State} {p : Port} (h : (s.port p).cursor = none) :
    s.advanceAnswer p = ⟨s, .refusedState, 0⟩ := by
  rw [advanceAnswer, h]
  rfl

theorem advanceAnswer_empty {s : State} {p : Port} {k : Cursor} (cursor : (s.port p).cursor = some k)
    (unread : k.unread = 0) : s.advanceAnswer p = ⟨s, .empty, 0⟩ := by
  rw [advanceAnswer, cursor, recordAt_none cursor unread]
  rfl

theorem advanceAnswer_record {s : State} {p : Port} {k : Cursor} {r : CaptureRecord}
    (cursor : (s.port p).cursor = some k) (record : s.recordAt p = some r) :
    s.advanceAnswer p =
      ⟨s.advancePast p r, .done, BitVec.ofNat 8 ((s.advancePast p r).port p).unread⟩ := by
  rw [advanceAnswer, cursor, record]
  rfl

end State

theorem advancePassesOneRecord : Clause.AdvancePassesOneRecord := by
  intro p s hc sound
  have same := s.modCommand_cursor p fun c => { c with code := 0x0A }
  refine ⟨fun none => ?_, fun k cursor unread => ?_, fun k r cursor unread record => ?_⟩
  · exact State.cmdWrite_unchanged hc (State.advanceAnswer_unsubscribed (same.trans none))
  · exact State.cmdWrite_unchanged hc (State.advanceAnswer_empty (same.trans cursor) unread)
  · obtain ⟨n, e, freed⟩ := State.advancePast_frees r sound cursor
    refine ⟨n, ?_, freed⟩
    have current : s.recordAt p = some r := (State.recordAt_of_cursor cursor unread).trans record
    have detail : ((s.advancePast p r).port p).unread = k.unread - 1 := by
      rw [e]
      show ((s.modPort p fun c => { c with cursor := some ⟨r.sequence + 1, k.unread - 1⟩ }).port p).unread = _
      rw [State.modPort_port_self]
      rfl
    rw [← e]
    refine State.cmdWrite_changed hc ?_
    refine (State.advanceAnswer_record (same.trans cursor) ((s.recordAt_modCommand p _).trans current)).trans ?_
    rw [State.advancePast_modCommand, ← detail]
    congr 2
    rw [State.modCommand, State.modPort_port_self]
    rfl

/-- Settles O37. -/
theorem cursorCommands : Obligations.CursorCommands := ⟨subscribeAndUnsubscribe, advancePassesOneRecord⟩

end Sys2Proof.Machine
end

section
/-! SUPPORT. PORT_CLEAR (8.8): the context it leaves, what it leaves of the other blocks, and the capture unit (R150). -/

namespace Sys2Proof.Machine

/-- A port's whole context after its PORT_CLEAR. -/
def PortContext.cleared (c : PortContext) : PortContext :=
  { c.portClear with
    stage := none
    windows := Vector.ofFn fun w : Fin 4 => c.windows[w].portClear
    cursor := none
    command := c.command.portClear }

theorem CommandSlot.portClear_idle {c : CommandSlot} (h : c.inProgress = false) :
    c.portClear = { c with code := 0x0D, result := .done, detail := 0 } := if_neg (Bool.not_eq_true _ ▸ h)

theorem CommandSlot.portClear_detached {c : CommandSlot} (h : c.inProgress = true) :
    c.portClear = { c with code := 0x0D, inProgress := false, result := .none, detail := c.code } := if_pos h

theorem CommandSlot.portClear_keeps (c : CommandSlot) :
    (c.portClear).code = 0x0D ∧ (c.portClear).inProgress = false ∧ (c.portClear).arg0 = c.arg0 ∧
      (c.portClear).arg1 = c.arg1 ∧ (c.portClear).arg2 = c.arg2 := by
  cases h : c.inProgress
  · rw [portClear_idle h]
    exact ⟨rfl, h, rfl, rfl, rfl⟩
  · rw [portClear_detached h]
    exact ⟨rfl, rfl, rfl, rfl, rfl⟩

theorem Window.portClear_out {w : Window} (h : w.state = .inFlight ∨ w.state = .cancelling) :
    w.portClear = { Window.reset with state := .cancelling, clearMark := true } :=
  if_pos (by rcases h with h | h <;> rw [h] <;> rfl)

theorem Window.portClear_reset {w : Window} (fl : w.state ≠ .inFlight) (ca : w.state ≠ .cancelling) :
    w.portClear = Window.reset :=
  if_neg (by rw [decide_eq_false fl, decide_eq_false ca]; exact Bool.false_ne_true)

theorem PortContext.cleared_settle_events (c : PortContext) : c.cleared.settle.events = 0 := by
  show (0 &&& ~~~captureReadyMask) ||| (0 : Byte) = 0
  decide

theorem PortContext.cleared_attention (c : PortContext) : c.cleared.settle.attention = .high := by
  rw [attention, cleared_settle_events]
  exact if_pos BitVec.zero_and

theorem PortContext.cleared_window (c : PortContext) (w : Fin 4) : c.cleared.windows[w] = c.windows[w].portClear := by
  simp [cleared]

namespace State

theorem modPort_of_eq {s : State} {p : Port} {f : PortContext → PortContext} (h : f (s.port p) = s.port p) :
    s.modPort p f = s := by
  have same : s.ports.set p (s.port p) = s.ports := by cases p <;> rfl
  rw [modPort, h, same]

theorem unsubscribe_none {s : State} {p : Port} (h : (s.port p).cursor = none) : s.unsubscribe p = s :=
  if_neg (by rw [h]; exact Bool.false_ne_true)

/-- The end of a subscription changes the port's cursor and the capture unit. -/
theorem unsubscribe_changes (s : State) (p : Port) :
    s.unsubscribe p =
      { s.modPort p fun c => { c with cursor := none } with capture := (s.unsubscribe p).capture } := by
  by_cases h : (s.port p).cursor = none
  · have same : s.modPort p (fun c => { c with cursor := none }) = s :=
      modPort_of_eq (by rw [← h])
    rw [unsubscribe_none h, same]
  · exact unsubscribe_eq h

/-- Changes of one port's context, with changes of other blocks between them, make one change. -/
theorem contextChanges_eq (u : State) (p : Port) (f g h : PortContext → PortContext) (k : CommandSlot → CommandSlot)
    (queue : List Request) (left : Capture) (sched : Scheduler) (store : Store) :
    ({ ({ u.modPort p f with queue := queue }.modPort p g) with
      capture := left, sched := sched, store := store }.modCommand p k).modPort p h =
      { u with
        ports := u.ports.set p (h { g (f (u.port p)) with command := k (g (f (u.port p))).command })
        queue := queue
        sched := sched
        store := store
        capture := left } := by
  cases p <;> rfl

/-- PORT_CLEAR behind the claim table's part, block by block. -/
theorem clearBlocks_eq (u : State) (p : Port) (left : Capture) :
    (((({ ({ u.modPort p fun c =>
          { c with stage := none, windows := Vector.ofFn fun w : Fin 4 => c.windows[w].portClear } with
        queue := u.queue.filter fun r => r.port ≠ p } : State).modPort p fun c => { c with cursor := none } with
      capture := left }.clearWaiter p).clearSave p).modCommand p (·.portClear)).modPort p (·.portClear)) =
      { u with
        ports := u.ports.set p (u.port p).cleared
        queue := u.queue.filter fun r => r.port ≠ p
        sched := { u.sched with waiters := u.sched.waiters.set p false }
        store := (u.clearSave p).store
        capture := left } := by
  exact contextChanges_eq u p
    (fun c => { c with stage := none, windows := Vector.ofFn fun w : Fin 4 => c.windows[w].portClear })
    (fun c => { c with cursor := none }) (·.portClear) (·.portClear) _ left _ _

/-- PORT_CLEAR, block by block. -/
theorem portClear_eq (s : State) (p : Port) :
    s.portClear p =
      { s with
        slots := (s.modSlots fun x => if x.owner = some p then x.release else x).slots
        ports := s.ports.set p (s.port p).cleared
        queue := s.queue.filter fun r => r.port ≠ p
        sched := { s.sched with waiters := s.sched.waiters.set p false }
        store := (s.clearSave p).store
        capture := (((s.clearClaims p).clearWindows p).unsubscribe p).capture } := by
  rw [portClear, unsubscribe_changes]
  generalize (((s.clearClaims p).clearWindows p).unsubscribe p).capture = left
  rw [clearClaims, clearWindows, modPort_modPort]
  exact clearBlocks_eq (s.modSlots fun x => if x.owner = some p then x.release else x) p left

theorem exec_portClear {s : State} {p : Port} (h : s.Stands p true 0x08) :
    exec (.portClear p) s = .next (((s.portClear p).afterByte p true 0x08 0).settle) := by
  refine (writeAccess_mine (mine := isCmd) h rfl).trans ?_
  rw [accessDone_eq, afterData_not_data _ _ (by decide)]

theorem portClear_port_self (s : State) (p : Port) : (s.portClear p).port p = (s.port p).cleared := by
  rw [portClear_eq]
  exact PerPort.get_set_self _ _ _

theorem portClear_port_ne (s : State) {p q : Port} (h : q ≠ p) : (s.portClear p).port q = s.port q := by
  rw [portClear_eq]
  exact PerPort.get_set_ne _ _ h

theorem portClear_slot (s : State) (p : Port) (i : Fin 16) :
    (s.portClear p).slot i = if (s.slot i).owner = some p then (s.slot i).release else s.slot i := by
  have slots : (s.portClear p).slots = (s.modSlots fun x => if x.owner = some p then x.release else x).slots := by
    rw [portClear_eq]
  calc (s.portClear p).slot i = (s.modSlots fun x => if x.owner = some p then x.release else x).slot i :=
        congrArg (·[i]) slots
    _ = _ := s.modSlots_slot _ i

theorem clearSave_mine {s : State} {p : Port} {v : Save} (h : s.store.save = some v) (mine : v.issuer = p) :
    (s.clearSave p).store.save = some { v with tell := false } := by
  show s.store.save.map _ = _
  rw [h]
  exact congrArg some (if_pos mine)

theorem clearSave_other {s : State} {p : Port} (h : ∀ v, s.store.save = some v → v.issuer ≠ p) :
    (s.clearSave p).store = s.store := by
  have same : s.store.save.map (·.portClear p) = s.store.save := by
    cases e : s.store.save with
    | none => rfl
    | some v => exact congrArg some (if_neg (h v e))
  show { s.store with save := s.store.save.map (·.portClear p) } = s.store
  rw [same]

/-- The claims and the windows are not the capture unit's. -/
theorem beforeUnsubscribe_capture (s : State) (p : Port) : ((s.clearClaims p).clearWindows p).capture = s.capture := by
  rw [clearWindows, clearClaims]
  simp only [modPort_capture, modSlots_capture]

theorem beforeUnsubscribe_cursor (s : State) (p q : Port) :
    (((s.clearClaims p).clearWindows p).port q).cursor = (s.port q).cursor := by
  have windows (u : State) : ((u.clearWindows p).port q).cursor = (u.port q).cursor := by cases p <;> cases q <;> rfl
  have stage (u : State) : ((u.modPort p fun c => { c with stage := none }).port q).cursor = (u.port q).cursor := by
    cases p <;> cases q <;> rfl
  rw [windows, clearClaims, stage, modSlots_port]

theorem portClear_capture (s : State) (p : Port) :
    (s.portClear p).capture = (((s.clearClaims p).clearWindows p).unsubscribe p).capture := by rw [portClear_eq]

end State

theorem portClearTakesContext : Clause.PortClearTakesContext := by
  intro p s settled h
  obtain ⟨code, slot, arg0, arg1, arg2⟩ := (s.port p).command.portClear_keeps
  have mine : ((((s.portClear p).afterByte p true 0x08 0).settle).port p) = (s.port p).cleared.settle := by
    rw [State.settle_port, State.afterByte_port, State.portClear_port_self]
  have other {q : Port} (hq : q ≠ p) : ((((s.portClear p).afterByte p true 0x08 0).settle).port q) = s.port q := by
    rw [State.settle_port, State.afterByte_port, State.portClear_port_ne s hq, ← State.settle_port, settled]
  have command : ((((s.portClear p).afterByte p true 0x08 0).settle).command p) = (s.command p).portClear :=
    congrArg PortContext.command mine
  have window (w : Fin 4) :
      ((((s.portClear p).afterByte p true 0x08 0).settle).window p w) = (s.window p w).portClear :=
    (congrArg (fun c : PortContext => c.windows[w]) mine).trans ((s.port p).cleared_window w)
  refine ⟨_, State.exec_portClear h, ?_⟩
  rw [mine, command, State.settle_attn_get, mine]
  refine ⟨rfl, rfl, rfl, rfl, rfl, rfl, rfl, (s.port p).cleared_settle_events, rfl, rfl,
    (s.port p).cleared_attention, code, slot, arg0, arg1, arg2, fun idle => ?_, fun busy => ?_, fun w => ?_, ?_, ?_,
    fun i => ?_, fun q hq => ?_, ?_, fun v hv issuer => ?_, fun none => ?_, ?_, ?_, ?_, ?_, ?_, ?_, ?_⟩
  · rw [CommandSlot.portClear_idle idle]
    exact ⟨rfl, rfl⟩
  · rw [CommandSlot.portClear_detached busy]
    exact ⟨rfl, rfl⟩
  · rw [window]
    exact ⟨Window.portClear_out, Window.portClear_reset⟩
  · rw [State.settle_queue, State.afterByte_queue, State.portClear_eq]
  · rw [State.settle_out, State.afterByte_out, State.portClear_eq]
  · rw [State.settle_slot, State.afterByte_slot, State.portClear_slot]
    exact ⟨fun other => if_neg other, fun owned => (if_pos owned).trans (Slot.release_eq _)⟩
  · refine ⟨other hq, ?_⟩
    rw [State.settle_attn_get, other hq]
    calc (s.port q).attention = (s.settle.port q).attention := by rw [settled]
      _ = s.settle.pins.attn.get q := (s.settle_attn_get q).symm
      _ = s.pins.attn.get q := by rw [settled]
  · rw [State.settle_sched, State.afterByte_sched, State.portClear_eq]
  · rw [State.settle_store, State.afterByte_store, State.portClear_eq]
    exact State.clearSave_mine hv issuer
  · rw [State.settle_store, State.afterByte_store, State.portClear_eq]
    exact State.clearSave_other none
  · rw [State.settle_transfer]
    exact State.afterByte_transfer _ _ _ _ _ (b := 0x08) (by rw [State.portClear_eq]; exact h.2)
  · rw [State.settle_config, State.afterByte_config, State.portClear_eq]
  · rw [State.settle_roles, State.afterByte_roles, State.portClear_eq]
  · rw [State.settle_engine, State.afterByte_engine, State.portClear_eq]
  · rw [State.settle_handed, State.afterByte_handed, State.portClear_eq]
  · rw [State.settle_phase, State.afterByte_phase, State.portClear_eq]
  · rw [State.settle_ready, State.afterByte_ready, State.portClear_eq]

theorem portClearReclaims : Clause.PortClearReclaims := by
  intro p s h
  have capture : (((s.portClear p).afterByte p true 0x08 0).settle).capture =
      (((s.clearClaims p).clearWindows p).unsubscribe p).capture := by
    rw [State.settle_capture, State.afterByte_capture, State.portClear_capture]
  have cursor := s.beforeUnsubscribe_cursor p
  refine ⟨_, State.exec_portClear h, ?_, fun none => ?_, fun some sound => ?_⟩
  · rw [State.settle_port, State.afterByte_port, State.portClear_port_self]
    rfl
  · rw [capture, State.unsubscribe_none ((cursor p).trans none)]
    exact s.beforeUnsubscribe_capture p
  · have unread (q : Port) : (((s.clearClaims p).clearWindows p).port q).unread = (s.port q).unread :=
      State.unread_congr (cursor q)
    obtain ⟨n, m, e, freed⟩ := State.unsubscribe_frees (State.ringSound_of_eq cursor (s.beforeUnsubscribe_capture p) sound)
      (by rwa [cursor])
    refine ⟨n, m, capture.trans e, ?_⟩
    simpa only [State.FreedWithout, unread, cursor, State.beforeUnsubscribe_capture] using freed

/-- Settles O38. -/
theorem portClearResetsContext : Obligations.PortClearResetsContext := ⟨portClearTakesContext, portClearReclaims⟩

end Sys2Proof.Machine
end

section
/-! SUPPORT. LINK_START and LINK_STOP by link state (2.3): the answers, the cycle start, and what becomes of the requests. -/

namespace Sys2Proof.Machine

/-! ### Flags that are set -/

theorem Byte.or_sets {x b m : Byte} (h : b &&& m = m) : (x ||| b) &&& m = m := by
  apply BitVec.eq_of_getLsbD_eq
  intro i _
  have bit := congrArg (BitVec.getLsbD · i) h
  rw [BitVec.getLsbD_and] at bit
  rw [BitVec.getLsbD_and, BitVec.getLsbD_or]
  cases hm : m.getLsbD i with
  | false => rw [Bool.and_false]
  | true =>
    rw [hm, Bool.and_true] at bit
    rw [bit, Bool.or_true, Bool.and_true]

theorem Byte.or_keeps {x b m : Byte} (h : x &&& m = m) : (x ||| b) &&& m = m := by
  rw [BitVec.or_comm]
  exact or_sets h

namespace State

/-! ### LINK_START -/

theorem linkRunning_modCommand (s : State) (p : Port) (g : CommandSlot → CommandSlot) :
    (s.modCommand p g).linkRunning = s.linkRunning.modCommand p g :=
  modPorts_modCommand (s.modSched fun c => { c with link := .running, timer := some (125 * s.config.period.toNat) }) p
    (fun c => { c with events := c.events ||| 0x80 }) g (fun _ _ => rfl) fun _ => rfl

theorem startLink_modCommand (s : State) (p : Port) (g : CommandSlot → CommandSlot) :
    (s.modCommand p g).startLink = s.startLink.modCommand p g := by
  rw [startLink_eq, linkRunning_modCommand, startCycle_modCommand, ← startLink_eq]

theorem linkStartAnswer_stopped {s : State} {p : Port} (hr : s.role p = .supervise) (hl : s.sched.link = .stopped) :
    s.linkStartAnswer p = ⟨s.startLink, .done, 1⟩ := by
  rw [linkStartAnswer, checkRole_passed _ (supervises_of_role hr), hl]
  rfl

theorem linkStartAnswer_running {s : State} {p : Port} (hr : s.role p = .supervise) (hl : s.sched.link = .running) :
    s.linkStartAnswer p = ⟨s, .done, 1⟩ := by
  rw [linkStartAnswer, checkRole_passed _ (supervises_of_role hr), hl]
  rfl

theorem linkStartAnswer_stopping {s : State} {p : Port} (hr : s.role p = .supervise) (hl : s.sched.link = .stopping) :
    s.linkStartAnswer p = ⟨s, .refusedState, 2⟩ := by
  rw [linkStartAnswer, checkRole_passed _ (supervises_of_role hr), hl]
  rfl

theorem exec_linkStart_stopped {s : State} {p : Port} (hc : s.CanCommand p) (hr : s.role p = .supervise)
    (hl : s.sched.link = .stopped) :
    exec (.linkStart p) s = .next (s.linkRunning.startCycle.commandDone p 0x0E .done 1) := by
  refine cmdWrite_changed hc ?_
  rw [← startLink_eq, ← startLink_modCommand]
  exact linkStartAnswer_stopped (s := s.modCommand p _) hr hl

end State

theorem linkStartInEachState : Clause.LinkStartInEachState := by
  intro p s hc hr
  refine ⟨fun hl => ?_, fun hl => ?_, fun j rest hl divider due engine => ?_⟩
  · exact State.cmdWrite_unchanged hc (State.linkStartAnswer_running (s := s.modCommand p _) hr hl)
  · exact State.cmdWrite_unchanged hc (State.linkStartAnswer_stopping (s := s.modCommand p _) hr hl)
  · rw [State.exec_linkStart_stopped hc hr hl, State.startCycle_eq (s := s.linkRunning) divider due engine]
    rfl

theorem linkStartStartsCycle : Clause.LinkStartStartsCycle := fun _ s hc hr hl =>
  ⟨s.linkRunning.startCycle, State.exec_linkStart_stopped hc hr hl, (State.cycleStarts_iff _ _).mpr rfl⟩

/-- Settles O39. -/
theorem linkStartByState : Obligations.LinkStartByState := ⟨linkStartInEachState, linkStartStartsCycle⟩

namespace State

/-! ### LINK_STOP -/

theorem linkStopAnswer_stopped {s : State} {p : Port} (hr : s.role p = .supervise) (hl : s.sched.link = .stopped) :
    s.linkStopAnswer p = ⟨s, .done, 0⟩ := by
  rw [linkStopAnswer, checkRole_passed _ (supervises_of_role hr), hl]
  rfl

theorem linkStopAnswer_stopping {s : State} {p : Port} (hr : s.role p = .supervise) (hl : s.sched.link = .stopping) :
    s.linkStopAnswer p = ⟨s.addWaiter p, .inProgress, 0⟩ := by
  rw [linkStopAnswer, checkRole_passed _ (supervises_of_role hr), hl]

/-- An exchange in flight makes the command wait for its report (R22). -/
theorem linkStopAnswer_busy {s : State} {p : Port} (hr : s.role p = .supervise) (hl : s.sched.link = .running)
    (exchange : s.engine.exchange ≠ none) :
    s.linkStopAnswer p =
      ⟨((s.modSched fun c => { c with link := .stopping }).raiseAll .linkChange).addWaiter p, .inProgress, 0⟩ := by
  rw [linkStopAnswer, checkRole_passed _ (supervises_of_role hr), hl]
  exact if_pos (Option.isSome_iff_ne_none.mpr exchange)

theorem linkStopAnswer_idle {s : State} {p : Port} (hr : s.role p = .supervise) (hl : s.sched.link = .running)
    (exchange : s.engine.exchange = none) : s.linkStopAnswer p = ⟨s.enterStopped, .done, 0⟩ := by
  rw [linkStopAnswer, checkRole_passed _ (supervises_of_role hr), hl]
  exact if_neg (by rw [inFlight, exchange]; exact Bool.false_ne_true)

/-- With no exchange in flight the link is STOPPED at once (R22, R25). -/
theorem exec_linkStop_idle {s : State} {p : Port} (hc : s.CanCommand p) (hr : s.role p = .supervise)
    (hl : s.sched.link = .running) (exchange : s.engine.exchange = none) :
    exec (.linkStop p) s =
      .next ((((s.withdraw .linkStopped).requestsRemoved (fun _ => true) .linkStopped).linkStopped).commandDone p 0x0F
        .done 0) := by
  refine cmdWrite_changed hc ?_
  rw [← enterStopped_eq, ← enterStopped_modCommand]
  exact linkStopAnswer_idle (s := s.modCommand p _) hr hl exchange

theorem withdraw_none {s : State} (c : Cause) (h : s.handed = none) : s.withdraw c = s := by rw [withdraw, h]

/-- A CYCLIC or IDENT pending at the engine is dropped (R25, R29). -/
theorem withdraw_cyclicOrIdent {s : State} (c : Cause) (h : ∀ x, s.handed = some x → x.kind = .cyclic ∨ x.kind = .ident) :
    s.withdraw c = { s with handed := none } := by
  cases e : s.handed with
  | none => rw [withdraw_none c e, ← e]
  | some x => exact (withdrawnGives_withdraw e c).1 (h x e)

theorem requestsRemoved_port (s : State) (gone : Request → Bool) (c : Cause) (q : Port) :
    (s.requestsRemoved gone c).port q =
      { s.port q with
        windows := Vector.ofFn fun w : Fin 4 =>
          if s.queue.any fun r => gone r && r.port = q && r.window = w then
            { s.window q w with state := .failed, cause := c, detail := 0 }
          else s.window q w
        events := (s.port q).events ||| if s.queue.any fun r => gone r && r.port = q then 0x04 else 0 } := by
  cases q <;> rfl

theorem requestsRemoved_window (s : State) (gone : Request → Bool) (c : Cause) (q : Port) (w : Fin 4) :
    (s.requestsRemoved gone c).window q w =
      if s.queue.any fun r => gone r && r.port = q && r.window = w then
        { s.window q w with state := .failed, cause := c, detail := 0 }
      else s.window q w := by
  rw [window, requestsRemoved_port]
  simp

/-- The queue emptied: the window of a queued record (R111). -/
theorem allRemoved_window_queued {s : State} {q : Port} {w : Fin 4} (c : Cause)
    (h : ∃ r ∈ s.queue, r.port = q ∧ r.window = w) :
    (s.requestsRemoved (fun _ => true) c).window q w = { s.window q w with state := .failed, cause := c, detail := 0 } ∧
      ((s.requestsRemoved (fun _ => true) c).port q).events = (s.port q).events ||| 0x04 := by
  obtain ⟨r, queued, port, window⟩ := h
  rw [requestsRemoved_window, requestsRemoved_port]
  refine ⟨if_pos ?_, congrArg ((s.port q).events ||| ·) (if_pos ?_)⟩
  · exact List.any_eq_true.mpr ⟨r, queued, by simp [port, window]⟩
  · exact List.any_eq_true.mpr ⟨r, queued, by simp [port]⟩

/-- The queue emptied: a window that no record serves. -/
theorem allRemoved_window_free {s : State} {q : Port} {w : Fin 4} (c : Cause)
    (h : ∀ r ∈ s.queue, r.port = q → r.window ≠ w) :
    (s.requestsRemoved (fun _ => true) c).window q w = s.window q w := by
  rw [requestsRemoved_window]
  refine if_neg fun some => ?_
  obtain ⟨r, queued, serves⟩ := List.any_eq_true.mp some
  simp only [Bool.true_and, Bool.and_eq_true, decide_eq_true_eq] at serves
  exact h r queued serves.1 serves.2

theorem allRemoved_queue (s : State) (c : Cause) : (s.requestsRemoved (fun _ => true) c).queue = [] :=
  List.filter_eq_nil_iff.mpr fun _ _ => by simp

/-- The link STOPPED, block by block: flags are set, LINK_CHANGE among them, and every slot is stopped (R25, R56, R70). -/
theorem linkStopped_blocks (s : State) :
    ∃ b : Byte, b &&& 0x80 = 0x80 ∧ s.linkStopped =
      { s with
        slots := (s.modSlots (·.stop)).slots
        ports := s.ports.map fun c => { c with events := c.events ||| b }
        sched := { s.sched with
          link := .stopped, timer := none, inCycle := false, plan := [], acyclic := 0, deferred := false }
        phase := false } := by
  have slots := congrArg s.modSlots (funext slot_stop_eq)
  unfold linkStopped
  rw [← slots]
  generalize hb : (if ∃ i : Fin 16, (s.slot i).health.state = .active ∨ (s.slot i).health.state = .suspect ∨
    (s.slot i).health.state = .backoff then (0x88 : Byte) else 0x80) = b
  refine ⟨b, ?_, ?_⟩
  · rw [← hb]
    split <;> decide
  · have same : s.modSlots (·.stop) = { s with slots := (s.modSlots (·.stop)).slots } := rfl
    rw [same]
    generalize (s.modSlots (·.stop)).slots = left
    rfl

theorem linkStopped_port {s : State} (q : Port) :
    ∃ b : Byte, b &&& 0x80 = 0x80 ∧ s.linkStopped.port q = { s.port q with events := (s.port q).events ||| b } := by
  obtain ⟨b, mask, e⟩ := s.linkStopped_blocks
  refine ⟨b, mask, ?_⟩
  rw [e]
  exact PerPort.get_map _ _ _

theorem linkStopped_window (s : State) (q : Port) (w : Fin 4) : s.linkStopped.window q w = s.window q w := by
  obtain ⟨b, -, e⟩ := s.linkStopped_port q
  rw [window, e]
  rfl

/-! ### What a write of CMD leaves -/

theorem commandDone_eq (s : State) (p : Port) (code : Byte) (r : Result) (d : Byte) :
    s.commandDone p code r d =
      (((s.modCommand p fun c =>
        { c with code := code, result := r, detail := d, inProgress := r = .inProgress }).afterByte p true 0x08 0).settle) := by
  rw [commandDone, accessDone_eq, afterData_not_data _ _ (by decide)]

theorem commandDone_window (s : State) (p : Port) (code : Byte) (r : Result) (d : Byte) (q : Port) (w : Fin 4) :
    (s.commandDone p code r d).window q w = s.window q w := by
  rw [commandDone_eq, settle_window, afterByte_window, modCommand_window]

theorem modCommand_events (s : State) (p q : Port) (f : CommandSlot → CommandSlot) :
    ((s.modCommand p f).port q).events = (s.port q).events := by
  rw [modCommand, modPort_port]
  split
  · next h => rw [h]
  · rfl

/-- A flag that stands, but for CAPTURE_READY, stands after the command (R156). -/
theorem commandDone_flag {s : State} {q : Port} {m : Byte} (p : Port) (code : Byte) (r : Result) (d : Byte)
    (sticky : m &&& 0xFE = m) (h : (s.port q).events &&& m = m) :
    ((s.commandDone p code r d).port q).events &&& m = m := by
  rw [commandDone_eq, settle_port, afterByte_port]
  exact PortContext.settle_sticky sticky (by rwa [modCommand_events])

end State

theorem linkStopByState : Clause.LinkStopByState := by
  intro p s hc hr
  refine ⟨fun hl => ?_, fun hl => ?_, fun hl exchange => ?_, fun hl exchange handed queue => ?_⟩
  · exact State.cmdWrite_unchanged hc (State.linkStopAnswer_stopped (s := s.modCommand p _) hr hl)
  · exact State.cmdWrite_changed hc (State.linkStopAnswer_stopping (s := s.modCommand p _) hr hl)
  · refine State.cmdWrite_changed hc ((State.linkStopAnswer_busy (s := s.modCommand p _) hr hl exchange).trans ?_)
    exact congrArg (Answer.mk · .inProgress 0) (State.modPorts_modCommand
      (s.modSched fun c => { c with link := .stopping, waiters := c.waiters.set p true }) p
      (fun c => { c with events := c.events ||| 0x80 }) (fun c => { c with code := linkStopCode }) (fun _ _ => rfl) fun _ => rfl)
  · rw [State.exec_linkStop_idle hc hr hl exchange, State.withdraw_none _ handed,
      State.requestsRemoved_none _ fun r hr => by rw [queue] at hr; cases hr]
    rfl

theorem linkStopEmptiesQueue : Clause.LinkStopEmptiesQueue := by
  intro p s hc hr hl exchange _ handed
  refine ⟨_, State.exec_linkStop_idle hc hr hl exchange, ?_⟩
  rw [State.withdraw_cyclicOrIdent _ handed]
  obtain ⟨u, hu⟩ : ∃ u, u = ({ s with handed := none } : State).requestsRemoved (fun _ => true) .linkStopped := ⟨_, rfl⟩
  rw [← hu]
  have window (q : Port) (w : Fin 4) : (u.linkStopped.commandDone p 0x0F .done 0).window q w = u.window q w :=
    (State.commandDone_window _ _ _ _ _ _ _).trans (u.linkStopped_window q w)
  have flag {q : Port} {m : Byte} (sticky : m &&& 0xFE = m) (h : (u.port q).events &&& m = m) :
      ((u.linkStopped.commandDone p 0x0F .done 0).port q).events &&& m = m := by
    obtain ⟨b, -, port⟩ := u.linkStopped_port q
    refine State.commandDone_flag p _ _ _ sticky ?_
    rw [port]
    exact Byte.or_keeps h
  have queue : u.queue = [] := by rw [hu, State.allRemoved_queue]
  have keeps : u.handed = none ∧ u.engine = s.engine ∧ u.sched = s.sched ∧ u.config = s.config ∧ u.store = s.store ∧
      u.capture = s.capture := by rw [hu]; exact ⟨rfl, rfl, rfl, rfl, rfl, rfl⟩
  obtain ⟨uHanded, engine, sched, config, store, capture⟩ := keeps
  obtain ⟨b, -, blocks⟩ := u.linkStopped_blocks
  refine ⟨?_, ?_, ?_, ?_, ?_, ?_, ?_, ?_, ?_, ?_, fun q => ?_, fun q w => ⟨fun queued => ⟨?_, ?_⟩, fun free => ?_⟩⟩
  · rw [State.commandDone_eq, State.settle_sched, State.afterByte_sched, State.modCommand_sched, blocks]
  · rw [State.commandDone_eq, State.settle_sched, State.afterByte_sched, State.modCommand_sched, blocks]
  · rw [State.commandDone_eq, State.settle_queue, State.afterByte_queue, State.modCommand_queue, blocks, queue]
  · rw [State.commandDone_eq, State.settle_handed, State.afterByte_handed, State.modCommand_handed, blocks, uHanded]
  · rw [State.commandDone_eq, State.settle_engine, State.afterByte_engine, State.modCommand_engine, blocks, engine]
  · rw [State.commandDone_eq, State.settle_sched, State.afterByte_sched, State.modCommand_sched, blocks, sched]
  · rw [State.commandDone_eq, State.settle_sched, State.afterByte_sched, State.modCommand_sched, blocks, sched]
  · rw [State.commandDone_eq, State.settle_config, State.afterByte_config, State.modCommand_config, blocks, config]
  · rw [State.commandDone_eq, State.settle_store, State.afterByte_store, State.modCommand_store, blocks, store]
  · rw [State.commandDone_eq, State.settle_capture, State.afterByte_capture, State.modCommand_capture, blocks, capture]
  · obtain ⟨b, mask, port⟩ := u.linkStopped_port q
    refine State.commandDone_flag p _ _ _ (by decide) ?_
    rw [port]
    exact Byte.or_sets mask
  · rw [window, hu]
    exact (State.allRemoved_window_queued (s := { s with handed := none }) _ queued).1
  · refine flag (by decide) ?_
    rw [hu, (State.allRemoved_window_queued (s := { s with handed := none }) _ queued).2]
    exact Byte.or_sets (by decide)
  · rw [window, hu]
    exact State.allRemoved_window_free (s := { s with handed := none }) _ free

theorem linkStopWithdraws : Clause.LinkStopWithdraws := fun _ s hc hr hl exchange =>
  ⟨s.withdraw .linkStopped, State.exec_linkStop_idle hc hr hl exchange, State.withdraw_none _,
    fun _ handed => State.withdrawnGives_withdraw handed _⟩

/-- Settles O40. -/
theorem linkStopCommand : Obligations.LinkStopCommand := ⟨linkStopByState, linkStopEmptiesQueue, linkStopWithdraws⟩
end Sys2Proof.Machine
end

section
/-! SUPPORT. The end of STOPPING (2.3): what a report, a withdrawal and the link's stop leave of the engine, the stop waiters and
the commands, and what the stop waiters are told (R24). -/

namespace Sys2Proof.Machine

/-- A step leaves the engine, its pending request, the stop waiters and every command slot as they are. -/
structure CommandsKept (s t : State) : Prop where
  engine : t.engine = s.engine
  handed : t.handed = s.handed
  waiters : t.sched.waiters = s.sched.waiters
  command : ∀ p, t.command p = s.command p

namespace CommandsKept

theorem refl (s : State) : CommandsKept s s := ⟨rfl, rfl, rfl, fun _ => rfl⟩

theorem trans {s t u : State} (h : CommandsKept s t) (k : CommandsKept t u) : CommandsKept s u :=
  ⟨k.engine.trans h.engine, k.handed.trans h.handed, k.waiters.trans h.waiters,
    fun p => (k.command p).trans (h.command p)⟩

end CommandsKept

namespace State

theorem commandsKept_of_ports {s t : State} (engine : t.engine = s.engine) (handed : t.handed = s.handed)
    (waiters : t.sched.waiters = s.sched.waiters) (ports : t.ports = s.ports) : CommandsKept s t :=
  ⟨engine, handed, waiters, fun p => by rw [command, command, port_def, port_def, ports]⟩

theorem modPort_commandsKept (s : State) (p : Port) {f : PortContext → PortContext}
    (h : ∀ c, (f c).command = c.command) : CommandsKept s (s.modPort p f) := by
  refine ⟨rfl, rfl, rfl, fun q => ?_⟩
  rw [command, modPort_port]
  split
  · next e => rw [h, e, command]
  · rfl

theorem modPorts_commandsKept (s : State) {f : PortContext → PortContext} (h : ∀ c, (f c).command = c.command) :
    CommandsKept s (s.modPorts f) :=
  ⟨rfl, rfl, rfl, fun q => by rw [command, modPorts_port, h, command]⟩

theorem failWindow_commandsKept (s : State) (p : Port) (w : Fin 4) (c : Cause) (d : Byte) :
    CommandsKept s (s.failWindow p w c d) :=
  (s.modPort_commandsKept p (f := fun y => { y with windows := y.windows.set w ((y.windows[w]).fail c d) }) fun _ => rfl).trans
    (modPort_commandsKept _ p (f := fun y => y.raise .windowDone) fun _ => rfl)

theorem requestsRemoved_commandsKept (s : State) (gone : Request → Bool) (c : Cause) :
    CommandsKept s (s.requestsRemoved gone c) :=
  ⟨rfl, rfl, rfl, fun q => by
    rw [command, requestsRemoved_port]
    rfl⟩

theorem endCancelling_commandsKept (s : State) (p : Port) (w : Fin 4) : CommandsKept s (s.endCancelling p w) := by
  unfold endCancelling
  split
  · exact s.modPort_commandsKept p fun _ => rfl
  · exact s.failWindow_commandsKept p w _ _

theorem out_commandsKept (s : State) (out : Option Request) : CommandsKept s { s with out := out } :=
  commandsKept_of_ports rfl rfl rfl rfl

theorem dropOut_commandsKept (s : State) (c : Cause) : CommandsKept s (s.dropOut c) := by
  unfold dropOut
  cases s.out with
  | none => exact .refl s
  | some r =>
    refine (s.out_commandsKept none).trans ?_
    dsimp only
    split
    · exact failWindow_commandsKept _ _ _ _ _
    · exact endCancelling_commandsKept _ _ _
    all_goals exact .refl _

/-- A READ or WRITE that failed at the window unit (R106). -/
theorem windowFailure_commandsKept (s : State) (f : LinkFailure) : CommandsKept s (s.windowReport (.failed f)) := by
  unfold windowReport
  cases s.out with
  | none => exact .refl s
  | some r =>
    refine (s.out_commandsKept none).trans ?_
    dsimp only
    split
    · exact failWindow_commandsKept _ _ _ _ _
    · exact endCancelling_commandsKept _ _ _
    all_goals exact .refl _

theorem healthTaken_commandsKept (s : State) (i : Fin 16) (h : Health) : CommandsKept s (s.healthTaken i h) := by
  have flagged : ∀ f : Slot → Slot, ∀ b : Byte, CommandsKept s
      ((s.modSlot i f).modPorts fun c => { c with events := c.events ||| b }) := fun f b =>
    (commandsKept_of_ports rfl rfl rfl rfl : CommandsKept s (s.modSlot i f)).trans
      (modPorts_commandsKept _ fun _ => rfl)
  unfold healthTaken
  dsimp only
  split
  · exact (flagged _ _).trans (requestsRemoved_commandsKept _ _ _)
  · exact flagged _ _

/-- A failed exchange's report passed on, with or without the discard mark (R31). -/
theorem passFailure_commandsKept (s : State) (k : Kind) (i : Fin 16) (f : LinkFailure) :
    CommandsKept s (s.passReport k i (.failed f)) := by
  unfold passReport
  split
  · have cleared : CommandsKept s (s.modSched fun c => { c with discard := false }) :=
      commandsKept_of_ports rfl rfl rfl rfl
    cases k with
    | cyclic | ident => exact cleared
    | read | write => exact cleared.trans (dropOut_commandsKept _ _)
  · rw [healthEvidence_eq]
    cases k with
    | cyclic | ident => exact healthTaken_commandsKept _ _ _
    | read | write => exact (healthTaken_commandsKept _ _ _).trans (windowFailure_commandsKept _ f)

/-- A withdrawal leaves no request pending (R25). -/
theorem withdraw_leaves (s : State) (c : Cause) :
    CommandsKept { s with handed := none } (s.withdraw c) := by
  cases e : s.handed with
  | none =>
    rw [withdraw_none c e, ← e]
    exact .refl s
  | some x =>
    unfold withdraw
    rw [e]
    dsimp only
    split
    · exact .refl _
    · exact .refl _
    all_goals exact dropOut_commandsKept _ c

theorem waitersTold_port (s : State) (p : Port) : s.waitersTold.port p = s.waiterTold p := by cases p <;> rfl

theorem waitersTold_waiters (s : State) (p : Port) : s.waitersTold.sched.waiters.get p = false := by cases p <;> rfl

theorem waiterTold_waiting {s : State} {p : Port} (h : s.sched.waiters.get p = true)
    (busy : (s.command p).inProgress = true) (stop : (s.command p).code = 0x0F) :
    s.waiterTold p =
      { s.port p with
        command := { s.command p with inProgress := false, result := .done, detail := 0 }
        events := (s.port p).events ||| 0x40 } := if_pos ⟨h, busy, stop⟩

theorem waiterTold_other {s : State} {p : Port} (h : s.sched.waiters.get p = false) : s.waiterTold p = s.port p :=
  if_neg fun k => by rw [h] at k; cases k.1

/-- Telling a stop waiter sets flags and clears none (R24, R149). -/
theorem waiterTold_events (s : State) (p : Port) : ∃ b, (s.waiterTold p).events = (s.port p).events ||| b := by
  unfold waiterTold
  split
  · exact ⟨0x40, rfl⟩
  · exact ⟨0, (BitVec.or_zero).symm⟩

theorem linkStopped_commandsKept (s : State) : CommandsKept s s.linkStopped := by
  obtain ⟨b, -, e⟩ := s.linkStopped_blocks
  refine ⟨by rw [e], by rw [e], by rw [e], fun p => ?_⟩
  obtain ⟨c, -, port⟩ := s.linkStopped_port p
  rw [command, port]
  rfl

theorem stop_state (x : Slot) :
    x.stop.health.state = .disabled ∨ x.stop.health.state = .probing ∨ x.stop.health.state = .lockedOut := by
  rw [slot_stop_eq]
  dsimp only
  split
  · next h =>
    rcases h with h | h
    · exact .inl h
    · exact .inr (.inr h)
  · exact .inr (.inl rfl)

theorem linkStopped_slot (s : State) (i : Fin 16) : s.linkStopped.slot i = (s.slot i).stop := by
  obtain ⟨b, -, e⟩ := s.linkStopped_blocks
  have slots : s.linkStopped.slots = (s.modSlots (·.stop)).slots := by rw [e]
  exact (congrArg (·[i]) slots).trans (s.modSlots_slot _ i)

end State

theorem timeoutEndsStopping : Clause.TimeoutEndsStopping := by
  intro x s engine stopping
  obtain ⟨v, hv⟩ : ∃ v, v = ({ s with engine := .quiet x.rate .quietEntry } : State).passReport x.kind x.slot
    (.failed .noReply) := ⟨_, rfl⟩
  obtain ⟨u, hu⟩ : ∃ u, u = (v.withdraw .linkStopped).requestsRemoved (fun _ => true) .linkStopped := ⟨_, rfl⟩
  have gives : exec (.responseTimeout .high) s = .next u.linkStopped.waitersTold.settle := by
    rw [State.exec_of_decides (x := x) (.inl ⟨rfl, .inl ⟨rfl, engine⟩⟩), State.decideOutcome_stopping stopping, ← hv,
      State.endStopping_eq, ← hu]
  have kept : CommandsKept { v with handed := none } u.linkStopped :=
    ((v.withdraw_leaves .linkStopped).trans (by rw [hu]; exact State.requestsRemoved_commandsKept _ _ _)).trans
      u.linkStopped_commandsKept
  have passed : CommandsKept { s with engine := .quiet x.rate .quietEntry } v := hv ▸ State.passFailure_commandsKept _ _ _ _
  have command (p : Port) : u.linkStopped.command p = s.command p := (kept.command p).trans (passed.command p)
  have waiters : u.linkStopped.sched.waiters = s.sched.waiters := kept.waiters.trans passed.waiters
  obtain ⟨link, timer, queue⟩ : u.linkStopped.sched.link = .stopped ∧ u.linkStopped.sched.timer = none ∧
      u.linkStopped.queue = [] := by
    obtain ⟨b, -, blocks⟩ := u.linkStopped_blocks
    have emptied : u.queue = [] := hu ▸ State.allRemoved_queue _ .linkStopped
    rw [blocks]
    exact ⟨rfl, rfl, emptied⟩
  have slot := u.linkStopped_slot
  have flag (p : Port) : (u.linkStopped.port p).events &&& 0x80 = 0x80 := by
    obtain ⟨b, mask, stopped⟩ := u.linkStopped_port p
    rw [stopped]
    exact Byte.or_sets mask
  generalize u.linkStopped = w at *
  have port (p : Port) : w.waitersTold.settle.port p = (w.waiterTold p).settle := by
    rw [State.settle_port, State.waitersTold_port]
  refine ⟨_, gives, link, timer, queue, kept.handed, kept.engine.trans passed.engine, fun i => ?_,
    fun p => ⟨w.waitersTold_waiters p, ?_, fun waits busy stop => ⟨?_, ?_⟩, fun free => ?_⟩⟩
  · have stopped : w.waitersTold.settle.slot i = (u.slot i).stop := slot i
    rw [stopped]
    exact State.stop_state _
  · obtain ⟨c, flags⟩ := w.waiterTold_events p
    rw [port]
    refine PortContext.settle_sticky (by decide) ?_
    rw [flags]
    exact Byte.or_keeps (flag p)
  · rw [State.command, port, State.waiterTold_waiting (by rwa [waiters]) (by rwa [command]) (by rwa [command])]
    show { w.command p with inProgress := false, result := .done, detail := 0 } = _
    rw [command]
  · rw [port, State.waiterTold_waiting (by rwa [waiters]) (by rwa [command]) (by rwa [command])]
    exact PortContext.settle_sticky (by decide) (Byte.or_sets (by decide))
  · rw [State.command, port, State.waiterTold_other (by rwa [waiters])]
    exact command p

theorem reportEndsStopping : Clause.ReportEndsStopping := fun _ x d s decides stopping =>
  ⟨_, _, (State.exec_of_decides decides).trans (by rw [State.decideOutcome_stopping stopping]), s.passedOn_passReport x d,
    State.stoppingGives_endStopping _⟩

/-- Settles O41. -/
theorem stoppingEndsAtReport : Obligations.StoppingEndsAtReport := ⟨timeoutEndsStopping, reportEndsStopping⟩

end Sys2Proof.Machine
end

section
/-! SUPPORT. CYCLE_TIMER_EXPIRY, the turn after a report, and the evidence of a failed or a good cyclic exchange (2.4, 3.2). -/

namespace Sys2Proof.Machine

namespace State

/-! ### The turn that follows a report -/

theorem modSched_congr {s : State} {f g : Scheduler → Scheduler} (h : f s.sched = g s.sched) :
    s.modSched f = s.modSched g := by
  rw [modSched, modSched, h]

/-- In QUIET a request handed over is kept pending (R4). -/
theorem handedOver_quiet {s : State} {rate : BitVec 2} {since : GuardFrom} (h : s.engine = .quiet rate since) (k : Kind)
    (i : Fin 16) : s.handedOver k i = { s with handed := some ⟨k, i⟩ } := if_neg (by rw [h]; nofun)

/-- The planned part's next turn in QUIET (R28). -/
theorem nextTurn_planned {s : State} {rate : BitVec 2} {since : GuardFrom} {j : Fin 16} {rest : List (Fin 16)}
    (quiet : s.engine = .quiet rate since) (plan : s.sched.plan = j :: rest)
    (h : (s.slot j).health.state = .active ∨ (s.slot j).health.state = .suspect) :
    s.nextTurn = { s.modSched fun c => { c with plan := rest } with handed := some ⟨.cyclic, j⟩ } := by
  have kind : kindFor (s.slot j).health.state = .cyclic := if_neg (by rcases h with h | h <;> rw [h] <;> nofun)
  have first : s.planTurn s.sched.plan =
      some ((s.modSched fun c => { c with plan := rest }).handedOver (kindFor (s.slot j).health.state) j) := by
    rw [plan]
    exact planTurn_first (skipped := []) (rest := rest) (fun _ h => by cases h) (h.imp_right .inl)
  rw [nextTurn_of_plan first, kind]
  exact handedOver_quiet (s := s.modSched fun c => { c with plan := rest }) quiet _ _

/-- The acyclic part's next turn in QUIET (R30, R105). -/
theorem nextTurn_head {s : State} {rate : BitVec 2} {since : GuardFrom} {r : Request} {rest : List Request}
    (quiet : s.engine = .quiet rate since) (plan : s.sched.plan = []) (queue : s.queue = r :: rest)
    (room : s.sched.acyclic < s.sched.allowance) :
    s.nextTurn =
      { (s.modWindow r.port r.window fun w => { w with state := .inFlight, cause := .none, detail := 0 }).modSched
          fun y => { y with acyclic := y.acyclic + 1 } with
        queue := rest
        out := some r
        handed := some ⟨r.kind.kind, r.slot⟩ } := by
  have ended : s.planTurn s.sched.plan = none := by rw [plan]; rfl
  rw [nextTurn_of_queue ended (acyclicTurn_taken queue room), headTaken]
  refine Eq.trans (handedOver_quiet (rate := rate) (since := since) ?_ _ _) ?_
  · exact quiet
  have counts : { s.sched with plan := [], acyclic := s.sched.acyclic + 1 } =
      { s.sched with acyclic := s.sched.acyclic + 1 } := by rw [← plan]
  exact congrArg (fun c : Scheduler => ({ s.modWindow r.port r.window fun w =>
    { w with state := .inFlight, cause := .none, detail := 0 } with
    sched := c, queue := rest, out := some r, handed := some ⟨r.kind.kind, r.slot⟩ } : State)) counts

/-- An overrun is counted and its start deferred (R26). -/
theorem overrun_eq (s : State) :
    s.overrun =
      (s.modSched fun c =>
        { c with
          overruns := if c.overruns = 0xFFFF then 0xFFFF else c.overruns + 1, deferred := true }).modPorts fun c =>
        { c with events := c.events ||| 0x20 } := by
  rw [← modSched_congr (f := fun c => { c with overruns := saturate c.overruns, deferred := true }) (by rw [saturate_half])]
  rfl

/-! ### The evidence of a cyclic exchange -/

/-- An ACTIVE slot whose exchange has failed without loss (R49): SUSPECT, with SLOT_CHANGE in every port. -/
def suspected (s : State) (i : Fin 16) (f : LinkFailure) : State :=
  (s.modSlot i fun y =>
    { y with health :=
      { y.health with
        state := .suspect
        consecutive := 1
        failureCount := if y.health.failureCount = 0xFFFF then 0xFFFF else y.health.failureCount + 1
        lastFailure := some f } }).modPorts fun y => { y with events := y.events ||| 0x08 }

theorem evidenceTaken_suspected {s : State} {x : Exchange} {f : LinkFailure} (cyclic : x.kind = .cyclic)
    (active : (s.slot x.slot).health.state = .active) (limit : 2 ≤ s.config.suspectLimit.toNat) :
    s.evidenceTaken x (.failed f) = { s.suspected x.slot f with engine := .quiet x.rate .quietEntry } := by
  obtain ⟨u, hu⟩ : ∃ u : State, u = { s with engine := .quiet x.rate .quietEntry } := ⟨_, rfl⟩
  have on : (s.slot x.slot).health.state ≠ .disabled := by rw [active]; nofun
  have report : (s.slot x.slot).health.report (s.slot x.slot).config s.config x.kind (.failed f) =
      { (s.slot x.slot).health.failed f with state := .suspect, consecutive := 1 } := by
    rw [Health.report_failed _ _ _ _ on, Health.failure_active _ _ active (by rw [cyclic]; nofun)]
    exact if_neg (by omega)
  have slot : u.slot x.slot = s.slot x.slot := by rw [hu]; rfl
  have kept : lossTo (u.slot x.slot).health { (s.slot x.slot).health.failed f with state := .suspect, consecutive := 1 } =
      false := by rw [lossTo, Bool.and_eq_false_iff]; exact .inr rfl
  rw [evidenceTaken, ← hu, report, healthTaken_kept kept, slot, active, if_neg nofun, hu]
  exact congrArg (fun t : State => t.modPorts fun y => { y with events := y.events ||| 0x08 })
    (modSlot_congr (s := { s with engine := .quiet x.rate .quietEntry }) rfl)

end State

/-! ### CYCLE_TIMER_EXPIRY -/

theorem cycleTimerExpiryByState : Clause.CycleTimerExpiryByState := by
  intro s
  refine ⟨fun idle => ?_, fun running busy => ?_, fun j rest running ended divider due engine => ?_⟩
  · show execCycleTimerExpiry s = _
    rw [execCycleTimerExpiry]
    cases link : s.sched.link with
    | running => exact absurd link idle
    | stopping | stopped => rfl
  · show execCycleTimerExpiry s = _
    rw [execCycleTimerExpiry, running, busy]
    exact congrArg State.finish s.overrun_eq
  · rw [State.exec_cycleTimerExpiry_starts running ended, State.startCycle_eq divider due engine]

theorem emptyCycleEndsAtOnce : Clause.EmptyCycleEndsAtOnce := by
  intro s running idle notDeferred divider due queue
  have ended : (s.cycleStarted []).planTurn (s.cycleStarted []).sched.plan = none := rfl
  rw [State.exec_cycleTimerExpiry_starts running idle, State.startCycle, State.beginCycle_eq divider due,
    State.nextTurn_of_end ended (State.acyclicTurn_over (.inl queue)) notDeferred, State.endCycle_eq_cycleEnded]
  rfl

theorem expiryStartsCycle : Clause.ExpiryStartsCycle := fun s running ended =>
  ⟨s.startCycle, State.exec_cycleTimerExpiry_starts running ended, (State.cycleStarts_iff _ _).mpr rfl⟩

theorem turnFollowsReport : Clause.TurnFollowsReport := by
  intro c x d s decides kind running mark
  refine ⟨(s.evidenceTaken x d).passContents x.kind x.slot d, _, State.exec_of_decides decides, ?_, fun f hd => ?_,
    fun hk => ?_, fun y hd hk => ?_⟩
  · rw [State.decideOutcome_running running mark, State.turnGives_iff]
  · rw [hd]
    rcases kind with hk | hk <;> rw [hk] <;> rfl
  · rw [hk]
    rfl
  · rw [hd, hk]
    exact State.imageGives_applyCyclic _ _ _

theorem queueHeadTakenAfterReport : Clause.QueueHeadTakenAfterReport := by
  intro x r rest s u engine cyclic running mark active limit plan queue room hu
  have passed : (s.evidenceTaken x (.failed .noReply)).passContents x.kind x.slot (.failed .noReply) =
      { u with engine := .quiet x.rate .quietEntry } := by
    rw [State.evidenceTaken_suspected cyclic active limit, cyclic, hu]
    rfl
  have kept : u.sched = s.sched ∧ u.queue = s.queue := by rw [hu]; exact ⟨rfl, rfl⟩
  obtain ⟨sched, uQueue⟩ := kept
  rw [State.exec_of_decides (x := x) (.inl ⟨rfl, .inl ⟨rfl, engine⟩⟩), State.decideOutcome_running running mark, passed,
    State.nextTurn_head (s := { u with engine := .quiet x.rate .quietEntry }) (r := r) (rest := rest) rfl
      (by rw [← plan, ← sched]) (by rw [← queue, ← uQueue]) (by rwa [← sched] at room)]
  cases r.kind <;> rfl

/-- Settles O42. -/
theorem cycleTimerExpiry : Obligations.CycleTimerExpiry :=
  ⟨cycleTimerExpiryByState, emptyCycleEndsAtOnce, expiryStartsCycle, turnFollowsReport, queueHeadTakenAfterReport⟩

end Sys2Proof.Machine
end

section
/-! SUPPORT. The report of a CYCLIC exchange in RUNNING: a failure, a good reply, and a report under the discard mark (1.5, 2.5). -/

namespace Sys2Proof.Machine

/-- A slot whose health part has counted a good report (R49). -/
def Slot.counted (z : Slot) : Slot := { z with health := { z.health with goodCount := z.health.goodCount + 1 } }

namespace State

/-- Each of the ways an exchange fails decides it (R11 to R15). -/
theorem decides_of_failure {c : Instr} {f : LinkFailure} {x : Exchange} {s : State}
    (h : (c = .responseTimeout .high ∧ s.engine = .waiting x false ∧ f = .noReply) ∨
      (c = .replyStartBit .high ∧ s.engine = .waiting x true ∧ f = .noReply) ∨
      (c = .idleTimeout .high ∧ s.engine = .receiving x .running ∧ f = .badLength) ∨
      (c = .replyStartBit .high ∧ s.engine = .receiving x .expiredLow ∧ f = .badLength) ∨
      (∃ v, c = .replyByte v .low ∧ s.engine = .receiving x .stopped ∧ f = .badCheck) ∨
      (∃ v, c = .replyByte v .high ∧ s.engine = .receiving x .stopped ∧ x.received = [] ∧
        x.request.head? ≠ some v ∧ x.request ≠ [] ∧ f = .badEcho) ∨
      (∃ v, c = .replyByte v .high ∧ s.engine = .receiving x .stopped ∧ 4 ≤ x.expected ∧
        x.received.length + 1 = x.expected ∧
        crc ((x.received ++ [v]).take (x.expected - 2)) ≠
          (x.received ++ [v]).getD (x.expected - 2) 0 ++ (x.received ++ [v]).getD (x.expected - 1) 0 ∧
        f = .badCheck)) :
    s.Decides c x (.failed f) := by
  rcases h with ⟨hc, he, rfl⟩ | ⟨hc, he, rfl⟩ | ⟨hc, he, rfl⟩ | ⟨hc, he, rfl⟩ | ⟨v, hc, he, rfl⟩ |
    ⟨v, hc, he, first, echo, some, rfl⟩ | ⟨v, hc, he, four, last, check, rfl⟩
  · exact .inl ⟨rfl, .inl ⟨hc, he⟩⟩
  · exact .inl ⟨rfl, .inr ⟨hc, he⟩⟩
  · exact .inr (.inl ⟨rfl, .inl ⟨hc, he⟩⟩)
  · exact .inr (.inl ⟨rfl, .inr ⟨hc, he⟩⟩)
  · exact .inr (.inr ⟨he, v, .inl ⟨hc, rfl⟩⟩)
  · exact .inr (.inr ⟨he, v, .inr (.inl ⟨hc, first, echo, some, rfl⟩)⟩)
  · exact .inr (.inr ⟨he, v, .inr (.inr ⟨hc, four, last, .inr ⟨check, rfl⟩⟩)⟩)

/-- A good report of an ACTIVE slot that is no IDENT's is counted (R49). -/
theorem evidenceTaken_counts {s : State} {x : Exchange} {y : Reply} (hk : x.kind ≠ .ident)
    (active : (s.slot x.slot).health.state = .active) :
    s.evidenceTaken x (.success y) =
      { s.modSlot x.slot (·.counted) with engine := .quiet x.rate .quietEntry } := by
  obtain ⟨keeps, -⟩ := goodReportKeepsOrRestores (s.slot x.slot).config s.config x.kind y (s.slot x.slot).health hk
  unfold evidenceTaken
  rw [keeps active]
  refine (healthTaken_kept (s := { s with engine := .quiet x.rate .quietEntry }) (i := x.slot) ?_).trans ?_
  · rw [lossTo, Bool.and_eq_false_iff]
    right
    rw [decide_eq_false_iff_not, active]
    nofun
  · have same : (s.slot x.slot).counted.health.state =
        (({ s with engine := .quiet x.rate .quietEntry } : State).slot x.slot).health.state := rfl
    exact (congrArg (fun b : Byte => (({ s with engine := .quiet x.rate .quietEntry } : State).modSlot x.slot _).modPorts
      fun c => { c with events := c.events ||| b }) (if_pos same)).trans (modPorts_events_zero _)

/-- A good report counted and its reply applied are one update of the slot (R49, R63). -/
theorem recordUpdated_counted (s : State) (i : Fin 16) (y : Reply) :
    (s.modSlot i (·.counted)).recordUpdated i y =
      s.modSlot i fun z =>
        { z with
          health := { z.health with goodCount := z.health.goodCount + 1 }
          input :=
            { state := .fresh
              err := if z.config.errLatch then y.err || z.input.err else y.err
              warn := y.warn
              evt := y.evt
              generation := z.input.generation + 1
              age := 0
              data := Vector.ofFn fun k : Fin 16 => if k.val < z.config.inputLength.toNat then y.payload.getD k.val 0 else 0
              updated := true } } := by
  rw [recordUpdated, modSlot_modSlot]
  rfl

end State

/-- Settles O47. -/
theorem failedExchangeMakesSuspect : Obligations.FailedExchangeMakesSuspect := by
  intro c f x j rest s fails cyclic running mark plan other served active limit
  have slot : (s.suspected x.slot f).slot j = s.slot j := by
    rw [State.suspected, State.modPorts_slot, State.modSlot_slot_ne _ _ other]
  rw [State.exec_of_decides (State.decides_of_failure fails), State.decideOutcome_running running mark,
    State.evidenceTaken_suspected cyclic active limit, cyclic]
  refine congrArg (fun t : State => Host.Outcome.next t.settle) ?_
  exact State.nextTurn_planned (s := { s.suspected x.slot f with engine := .quiet x.rate .quietEntry }) rfl plan
    (slot.symm ▸ served)

/-- Settles O48. -/
theorem goodCyclicReplyIsApplied : Obligations.GoodCyclicReplyIsApplied := by
  intro v x j rest s engine four last check cyclic running mark plan other served active event
  have status : (x.received ++ [v]).getD 1 0 = x.received.getD 1 0 := List.getD_append _ _ _ _ (by omega)
  obtain ⟨u, hu⟩ : ∃ u : State, u =
    { s.modSlot x.slot (·.counted) with engine := .quiet x.rate .quietEntry } := ⟨_, rfl⟩
  have uActive : (u.slot x.slot).health.state = .active := by
    rw [hu]
    show ((s.modSlot x.slot _).slot x.slot).health.state = _
    rw [State.modSlot_slot_self]
    exact active
  have slot : (u.recordUpdated x.slot (State.replyOf x (x.received ++ [v]))).slot j = s.slot j := by
    rw [hu]
    exact (State.modSlot_slot_ne _ _ other).trans (s.modSlot_slot_ne _ other)
  rw [State.exec_of_decides (x := x) (.inr (.inr ⟨engine, v, .inr (.inr ⟨rfl, four, last, .inl ⟨check, rfl⟩⟩)⟩)),
    State.decideOutcome_running running mark, State.evidenceTaken_counts (by rw [cyclic]; nofun) active, ← hu, cyclic,
    State.passContents_updates _ uActive (by rw [hu]; exact event)]
  refine congrArg (fun t : State => Host.Outcome.next t.settle) ?_
  refine (State.nextTurn_planned (s := u.recordUpdated x.slot (State.replyOf x (x.received ++ [v]))) (j := j) (rest := rest)
    (rate := x.rate) (since := .quietEntry) (by rw [hu]; rfl) (by rw [hu]; exact plan) (slot.symm ▸ served)).trans ?_
  have merged := congrArg (fun t : State => ({ t.modSched fun y => { y with plan := rest } with
    engine := .quiet x.rate .quietEntry, handed := some ⟨.cyclic, j⟩ } : State))
    (s.recordUpdated_counted x.slot (State.replyOf x (x.received ++ [v])))
  rw [← status, hu]
  exact merged

theorem discardMarkHidesTimeout : Clause.DiscardMarkHidesTimeout := by
  intro x j rest s engine kind running mark plan served
  have passed : (({ s with engine := .quiet x.rate .quietEntry } : State).passDiscarded x.kind) =
      { s.modSched fun y => { y with discard := false } with engine := .quiet x.rate .quietEntry } := by
    rcases kind with hk | hk <;> rw [hk] <;> rfl
  rw [State.exec_of_decides (x := x) (.inl ⟨rfl, .inl ⟨rfl, engine⟩⟩), State.decideOutcome_discarded running mark, passed,
    State.nextTurn_planned (s := { s.modSched fun y => { y with discard := false } with
      engine := .quiet x.rate .quietEntry }) rfl plan served]
  rfl

theorem discardMarkHidesEveryReport : Clause.DiscardMarkHidesEveryReport := by
  intro c x d s u decides running mark hu
  refine ⟨({ s with engine := .quiet x.rate .quietEntry } : State).passDiscarded x.kind, _,
    State.exec_of_decides decides, ?_, fun hk => ?_, fun hk => ?_⟩
  · rw [State.decideOutcome_discarded running mark, State.turnGives_iff]
  · rw [hu]
    rcases hk with hk | hk <;> rw [hk] <;> rfl
  · rw [hu]
    rcases hk with hk | hk <;> rw [hk] <;> exact State.outEnds_dropOut _ _

/-- Settles O49. -/
theorem discardMarkHidesReport : Obligations.DiscardMarkHidesReport :=
  ⟨discardMarkHidesTimeout, discardMarkHidesEveryReport⟩

end Sys2Proof.Machine
end

section
/-! SUPPORT. The field link's engine (1.2 to 1.4): the check word, the request frozen at its begin, the guard and the reception. -/

namespace Sys2Proof.Machine

/-! ### The check word -/

/-- A byte enters the register in its upper half. -/
theorem append_zero_eq_shift (b : Byte) : (b ++ (0 : Byte) : Half) = b.setWidth 16 <<< 8 := by
  apply BitVec.eq_of_getLsbD_eq
  intro i hi
  rw [BitVec.getLsbD_append, BitVec.getLsbD_shiftLeft, BitVec.getLsbD_setWidth]
  by_cases low : i < 8
  · simp [low]
  · have : i - 8 < 16 := by omega
    simp [low, hi, this]

theorem crcShifts_eq_foldl (n : Nat) (r : Half) :
    crcShifts n r = (List.range n).foldl (fun x _ => if x.msb then (x <<< 1) ^^^ 0x1021 else x <<< 1) r := by
  induction n generalizing r with
  | zero => rfl
  | succ n ih =>
    rw [crcShifts, ih, List.range_succ_eq_map, List.foldl_cons, List.foldl_map]
    rfl

theorem crcByte_eq (r : Half) (b : Byte) :
    crcByte r b =
      (List.range 8).foldl (fun (x : Half) _ => if x.msb then (x <<< 1) ^^^ 0x1021 else x <<< 1)
        (r ^^^ (b.setWidth 16 <<< 8)) := by
  rw [crcByte, crcShifts_eq_foldl, append_zero_eq_shift]

/-- Settles O43. -/
theorem checkWordIsCrc : Obligations.CheckWordIsCrc := by
  refine ⟨fun bytes => ?_, by decide⟩
  rw [crc, crcFrom_eq_foldl]
  exact congrArg (fun f => bytes.foldl f 0xFFFF) (funext fun r => funext fun b => crcByte_eq r b)

/-! ### The request -/

theorem addressByte_bit (k : Kind) (address : Byte) (i : Nat) :
    (addressByte k address).getLsbD i = if i < 6 then address.getLsbD i else k.code.getLsbD (i - 6) := by
  rw [addressByte]
  refine (BitVec.getLsbD_append (x := k.code) (y := address.setWidth 6)).trans ?_
  rw [BitVec.getLsbD_setWidth]
  by_cases low : i < 6 <;> simp [low]

/-- Byte 0 of a request with its kind written out (R7). -/
theorem addressByte_eq (k : Kind) (address : Byte) :
    addressByte k address =
      (match k with | .cyclic => 0 | .ident => 0x40 | .read => 0x80 | .write => 0xC0) ||| (address &&& 0x3F) := by
  apply BitVec.eq_of_getLsbD_eq
  intro i hi
  rw [addressByte_bit, BitVec.getLsbD_or, BitVec.getLsbD_and]
  cases k <;> interval_cases i <;> simp [Kind.code]

namespace State

theorem requestFrame_eq (s : State) (k : Kind) (i : Fin 16) :
    s.requestFrame k i =
      ([addressByte k (s.slot i).config.address, s.sched.cycle.extractLsb' 0 8] ++ s.requestPayload k i) ++
        [BitVec.extractLsb' 8 8 (crc ([addressByte k (s.slot i).config.address, s.sched.cycle.extractLsb' 0 8] ++
            s.requestPayload k i)),
          BitVec.extractLsb' 0 8 (crc ([addressByte k (s.slot i).config.address, s.sched.cycle.extractLsb' 0 8] ++
            s.requestPayload k i))] := by
  rw [requestFrame, closeFrame, half_low_eq, half_high_eq, half_low_eq]

/-- The payload of a READ or WRITE (R9). -/
theorem requestPayload_out {s : State} {r : Request} {k : Kind} (i : Fin 16) (out : s.out = some r) (h : k = r.kind.kind) :
    s.requestPayload k i =
      [r.address.extractLsb' 8 8, r.address.extractLsb' 0 8] ++
        match r.kind with | .read => [] | .write d => d.toList := by
  have payload : s.requestPayload k i = r.payload := by
    unfold requestPayload
    rw [h, out]
    cases r.kind <;> rfl
  refine payload.trans ?_
  rw [← half_low_eq, ← half_high_eq]
  rfl

theorem requestOutput_eq (x : Slot) :
    x.requestOutput =
      (if x.config.errSafe = true ∧ x.input.err = true then x.config.safeOutput else x.output.committed).toList.take
        x.config.outputLength.toNat := by
  rw [Slot.requestOutput, if_congr (Bool.and_eq_true_iff) rfl rfl]

end State

/-- Settles O44. -/
theorem requestFrozenAtBegin : Obligations.RequestFrozenAtBegin := by
  intro s k i
  refine ⟨_, s.requestPayload k i, s.requestFrame_eq k i, ?_, fun hk => ?_, fun hk => ?_,
    fun r out hk => State.requestPayload_out i out hk, rfl, rfl, rfl, rfl, rfl, rfl⟩
  · exact congrArg (fun b : Byte => [b, s.sched.cycle.extractLsb' 0 8] ++ s.requestPayload k i) (addressByte_eq _ _)
  · rw [hk]
    exact State.requestOutput_eq _
  · rw [hk]
    rfl

/-! ### The guard and the end of a request -/

namespace State

/-- Both ends of QUIET (R5). -/
theorem exec_guard {c : Instr} {rate : BitVec 2} {since : GuardFrom} {s : State} (hc : c = .guardMet ∨ c = .guardTimeout)
    (quiet : s.engine = .quiet rate since) : exec c s = .next s.enterReady.settle := by
  rcases hc with rfl | rfl
  · show execGuardMet s = _
    rw [execGuardMet, quiet]
    rfl
  · show execGuardTimeout s = _
    rw [execGuardTimeout, quiet]
    rfl

theorem lowOnLine_quiet {rate : BitVec 2} {since : GuardFrom} {s : State} (quiet : s.engine = .quiet rate since) :
    s.lowOnLine = { s with engine := .quiet rate .lastLow } := by rw [lowOnLine, quiet]

end State

theorem guardEndsQuiet : Clause.GuardEndsQuiet := by
  intro c rate since s hc quiet
  refine ⟨fun none => ⟨?_, rfl⟩, fun h some => ⟨_, State.exec_guard hc quiet, ?_, ?_⟩⟩
  · rw [State.exec_guard hc quiet, State.enterReady, none]
  · rw [State.enterReady, some]
    rfl
  · rw [State.enterReady, some]
    rfl

theorem lowInQuietRestartsGuard : Clause.LowInQuietRestartsGuard := by
  intro c rate since s hc quiet
  rw [← State.lowOnLine_quiet quiet]
  rcases hc with rfl | ⟨m, rfl⟩ | ⟨v, l, rfl⟩
  · rfl
  · show execReplyStartBit m s = _
    rw [execReplyStartBit, quiet]
    rfl
  · show execReplyByte v l s = _
    rw [execReplyByte, quiet]
    rfl

theorem requestSentStartsWait : Clause.RequestSentStartsWait := by
  intro x s sending
  refine ⟨?_, rfl⟩
  show execRequestSent s = _
  rw [execRequestSent, sending]
  rfl

/-- Settles O45. -/
theorem guardAndSending : Obligations.GuardAndSending := ⟨guardEndsQuiet, lowInQuietRestartsGuard, requestSentStartsWait⟩

/-! ### The reception -/

theorem startBitStopsTimer : Clause.StartBitStopsTimer := by
  intro x s
  refine ⟨fun waiting => ?_, fun running => ?_, fun timer => ?_, fun timer => ?_⟩
  · show execResponseTimeout .low s = _
    rw [execResponseTimeout, waiting]
    rfl
  · show execIdleTimeout .low s = _
    rw [execIdleTimeout, running]
    rfl
  · show execReplyStartBit .low s = _
    rcases timer with ⟨e, h⟩ | h | h
    all_goals
      rw [execReplyStartBit, h]
      rfl
  · show execReplyStartBit .high s = _
    rcases timer with h | h
    all_goals
      rw [execReplyStartBit, h]
      rfl

/-- A byte before the last one, with a right echo, decides nothing (R12, R13). -/
theorem Exchange.judge_goesOn {x : Exchange} {v : Byte} (more : x.received.length + 1 < x.expected)
    (echo : x.received = [] → x.request.head? = some v) : x.judge (x.received ++ [v]) = none := by
  have length : (x.received ++ [v]).length = x.received.length + 1 := List.length_append
  have right : ¬((x.received ++ [v]).length = 1 ∧ (x.received ++ [v]).getD 0 0 ≠ x.request.getD 0 0) := by
    rintro ⟨one, wrong⟩
    have first : x.received = [] := List.length_eq_zero_iff.mp (by omega)
    obtain ⟨l, request⟩ := List.head?_eq_some_iff.mp (echo first)
    rw [first, request] at wrong
    exact wrong rfl
  rw [judge, if_neg right, if_pos (by omega)]

theorem replyByteIsKept : Clause.ReplyByteIsKept := by
  intro x v s receiving more echo
  show execReplyByte v .high s = _
  rw [execReplyByte, receiving]
  dsimp only
  rw [x.judge_goesOn more echo]
  rfl

/-- Settles O46. -/
theorem receptionGoesOn : Obligations.ReceptionGoesOn := ⟨startBitStopsTimer, replyByteIsKept⟩

end Sys2Proof.Machine
end

section
/-! SUPPORT. The eight rows that write a global setting (R2, R3, R19, R20, R37, R116, R161, R170). -/

namespace Sys2Proof.Machine

/-- The row that writes a global setting. -/
def Global.row (p : Port) (v : Byte) (g : Global) : Instr :=
  match g with
  | .bitRate => .bitRateWrite p v
  | .period => .periodWrite p v
  | .timeout => .responseTimeoutWrite p v
  | .allowance => .acyclicAllowanceWrite p v
  | .staleLimit | .suspectLimit | .firstQuick | .rejoinQuick | .backoff | .lockout => .healthParameterWrite p v
  | .roles => .rolesByteWrite p v
  | .linkstat => .linkstatOptionsWrite p v
  | .pinEdge | .timerDivider | .captureLow | .captureHigh | .eventLow | .eventHigh => .captureSettingWrite p v

/-- The bit rate and the period are written only with the link STOPPED (R2, R19). -/
def State.SettingOpen (s : State) (g : Global) : Prop := g = .bitRate ∨ g = .period → s.sched.link = .stopped

theorem Role.ofCode_code (r : Role) : Role.ofCode r.code = r := by cases r <;> rfl

theorem Role.code_ne_three (r : Role) : r.code ≠ 3 := by cases r <;> decide

theorem PinEdge.code_le (e : PinEdge) : e.code.toNat ≤ 3 := by cases e <;> decide

/-! ### Ranges -/

namespace Global

theorem toNat_pos {v : Byte} (h : v ≠ 0) : 1 ≤ v.toNat := by bv_omega

theorem between {v : Byte} {n m : Nat} (low : n ≤ v.toNat) (high : v.toNat ≤ m) :
    (decide (n ≤ v.toNat) && decide (v.toNat ≤ m)) = true := by
  rw [decide_eq_true low, decide_eq_true high]
  rfl

theorem not_between {v : Byte} {m : Nat} (h : v = 0 ∨ m < v.toNat) :
    (decide (1 ≤ v.toNat) && decide (v.toNat ≤ m)) = false := by
  rcases h with rfl | h
  · rfl
  · rw [decide_eq_false (Nat.not_le.mpr h), Bool.and_false]

theorem roles_inRange {v : Byte} {x y z : Role} (hx : v.extractLsb' 0 2 = x.code) (hy : v.extractLsb' 2 2 = y.code)
    (hz : v.extractLsb' 4 2 = z.code) : Global.roles.inRange v = true := by
  rw [inRange, twoBits_eq, twoBits_eq, twoBits_eq, hx, hy, hz, decide_eq_true x.code_ne_three,
    decide_eq_true y.code_ne_three, decide_eq_true z.code_ne_three]
  rfl

theorem roles_not_inRange {v : Byte} (h : v.extractLsb' 0 2 = 3 ∨ v.extractLsb' 2 2 = 3 ∨ v.extractLsb' 4 2 = 3) :
    Global.roles.inRange v = false := by
  rw [inRange, twoBits_eq, twoBits_eq, twoBits_eq]
  rcases h with h | h | h <;> simp [h]

/-- A byte that the ranges of the settings leave out. -/
theorem not_inRange {g : Global} {v : Byte}
    (h : (g = .period ∧ (v = 0 ∨ 129 ≤ v.toNat)) ∨ (g = .timeout ∧ (v = 0 ∨ 64 ≤ v.toNat)) ∨
      (g = .allowance ∧ (v = 0 ∨ 5 ≤ v.toNat)) ∨ (g = .staleLimit ∧ v = 0) ∨
      (g = .suspectLimit ∧ (v = 0 ∨ 8 ≤ v.toNat)) ∨
      ((g = .firstQuick ∨ g = .rejoinQuick) ∧ (v = 0 ∨ 16 ≤ v.toNat)) ∨ (g = .backoff ∧ v = 0) ∨
      (g = .lockout ∧ 8 ≤ v.toNat) ∨ (g = .pinEdge ∧ 4 ≤ v.toNat) ∨
      (g = .roles ∧ (v.extractLsb' 0 2 = 3 ∨ v.extractLsb' 2 2 = 3 ∨ v.extractLsb' 4 2 = 3))) :
    g.inRange v = false := by
  rcases h with ⟨rfl, h⟩ | ⟨rfl, h⟩ | ⟨rfl, h⟩ | ⟨rfl, rfl⟩ | ⟨rfl, h⟩ | ⟨rfl | rfl, h⟩ | ⟨rfl, rfl⟩ | ⟨rfl, h⟩ | ⟨rfl, h⟩ |
    ⟨rfl, h⟩
  · exact not_between h
  · exact not_between h
  · exact not_between h
  · rfl
  · exact not_between h
  · exact not_between h
  · exact not_between h
  · rfl
  · exact decide_eq_false (Nat.not_le.mpr h)
  · exact decide_eq_false (Nat.not_le.mpr h)
  · exact roles_not_inRange h

end Global

/-! ### The rows -/

namespace State

theorem settingAccess_mine {s : State} {p : Port} {v a : Byte} {g : Global} {f : Global → Bool} (h : s.Stands p true a)
    (ht : s.target p a = .image (.setting g)) (hf : f g = true) :
    (s.settingAccess p v f).finish = .next ((s.writeSetting p g v).accessDone p true a 0) := by
  refine (writeAccess_mine (mine := (·.isSetting f)) h (by rw [ht]; exact hf)).trans ?_
  rw [ht]
  rfl

/-- Each row writes its setting by its owner's rule (R136). -/
theorem exec_settingRow {s : State} {p : Port} {a : Byte} {g : Global} (v : Byte) (h : s.Stands p true a)
    (ht : s.target p a = .image (.setting g)) :
    exec (g.row p v) s = .next ((s.writeSetting p g v).accessDone p true a 0) := by
  cases g <;> exact settingAccess_mine h ht rfl

theorem writeSetting_taken {s : State} {p : Port} {g : Global} {v : Byte} (role : s.role p = .supervise)
    (opened : s.SettingOpen g) (range : g.inRange v = true) :
    s.writeSetting p g v = { s with config := s.config.put g v } := by
  cases g with
  | bitRate | period => exact if_pos ⟨role, decide_eq_true (opened (by decide)), range⟩
  | _ => exact if_pos ⟨role, rfl, range⟩

theorem writeSetting_refused {s : State} {p : Port} {g : Global} {v : Byte}
    (h : s.role p ≠ .supervise ∨ ¬s.SettingOpen g ∨ g.inRange v = false) : s.writeSetting p g v = s.refuse p := by
  have closed {allowed : Bool} (k : allowed = true → s.SettingOpen g) : s.writeGlobal p g allowed v = s.refuse p := by
    refine if_neg fun ⟨role, opened, range⟩ => ?_
    rcases h with h | h | h
    · exact h role
    · exact h (k opened)
    · rw [range] at h
      cases h
  cases g with
  | bitRate | period => exact closed fun stopped _ => of_decide_eq_true stopped
  | _ => exact closed fun _ k => by rcases k with k | k <;> cases k

/-- A row's write that is taken. -/
theorem exec_setting_taken {s : State} {p : Port} {v a : Byte} {g : Global} {c : LiveConfig} (h : s.Stands p true a)
    (ht : s.target p a = .image (.setting g)) (role : s.role p = .supervise) (opened : s.SettingOpen g)
    (range : g.inRange v = true) (put : s.config.put g v = c) :
    exec (g.row p v) s = .next (({ s with config := c } : State).accessDone p true a 0) := by
  rw [exec_settingRow v h ht, writeSetting_taken role opened range, put]

/-- A row's write that is taken, of a setting that may be written at any time. -/
theorem exec_setting_free {s : State} {p : Port} {v a : Byte} {g : Global} {c : LiveConfig} (h : s.Stands p true a)
    (ht : s.target p a = .image (.setting g)) (role : s.role p = .supervise) (rate : g ≠ .bitRate) (period : g ≠ .period)
    (range : g.inRange v = true) (put : s.config.put g v = c) :
    exec (g.row p v) s = .next (({ s with config := c } : State).accessDone p true a 0) :=
  exec_setting_taken h ht role (fun e => (e.elim rate period).elim) range put

end State

theorem settingWriteTaken : Clause.SettingWriteTaken := by
  intro p v a g s h ht role
  refine ⟨fun e stopped => ?_, fun e stopped low high => ?_, fun e low high => ?_, fun e low high => ?_, fun e some => ?_,
    fun e low high => ?_, fun e low high => ?_, fun e low high => ?_, fun e some => ?_, fun e high => ?_,
    fun x y z e hx hy hz => ?_, fun e => ?_, fun edge e code => ?_, fun e => ?_, fun e => ?_, fun e => ?_, fun e => ?_,
    fun e => ?_⟩
  all_goals subst e
  · exact State.exec_setting_taken h ht role (fun _ => stopped) rfl (by rw [LiveConfig.put, twoBits_eq])
  · exact State.exec_setting_taken h ht role (fun _ => stopped) (Global.between low high) rfl
  · exact State.exec_setting_free h ht role nofun nofun (Global.between low high) rfl
  · exact State.exec_setting_free h ht role nofun nofun (Global.between low high) rfl
  · exact State.exec_setting_free h ht role nofun nofun (decide_eq_true (Global.toNat_pos some)) rfl
  · exact State.exec_setting_free h ht role nofun nofun (Global.between low high) rfl
  · exact State.exec_setting_free h ht role nofun nofun (Global.between low high) rfl
  · exact State.exec_setting_free h ht role nofun nofun (Global.between low high) rfl
  · exact State.exec_setting_free h ht role nofun nofun (decide_eq_true (Global.toNat_pos some)) rfl
  · exact State.exec_setting_free h ht role nofun nofun (decide_eq_true high) rfl
  · exact State.exec_setting_free h ht role nofun nofun (Global.roles_inRange hx hy hz)
      (by rw [LiveConfig.put, twoBits_eq, twoBits_eq, twoBits_eq, hx, hy, hz, Role.ofCode_code, Role.ofCode_code,
        Role.ofCode_code])
  · exact State.exec_setting_free h ht role nofun nofun rfl rfl
  · subst code
    exact State.exec_setting_free h ht role nofun nofun (decide_eq_true edge.code_le)
      (by rw [LiveConfig.put, PinEdge.ofCode_code])
  · exact State.exec_setting_free h ht role nofun nofun rfl rfl
  · exact State.exec_setting_free h ht role nofun nofun rfl (by rw [LiveConfig.put, setLow_eq])
  · exact State.exec_setting_free h ht role nofun nofun rfl (by rw [LiveConfig.put, setHigh_eq])
  · exact State.exec_setting_free h ht role nofun nofun rfl (by rw [LiveConfig.put, setLow_eq])
  · exact State.exec_setting_free h ht role nofun nofun rfl (by rw [LiveConfig.put, setHigh_eq])

theorem settingWriteRefused : Clause.SettingWriteRefused := by
  intro c p v a g s h ht owner refused
  have row : c = g.row p v := by
    rcases owner with ⟨rfl, rfl⟩ | ⟨rfl, rfl⟩ | ⟨rfl, rfl⟩ | ⟨rfl, rfl⟩ | ⟨rfl, e⟩ | ⟨rfl, e⟩ | ⟨rfl, rfl⟩ | ⟨rfl, rfl⟩
    · rfl
    · rfl
    · rfl
    · rfl
    · rcases e with rfl | rfl | rfl | rfl | rfl | rfl <;> rfl
    · rcases e with rfl | rfl | rfl | rfl | rfl | rfl <;> rfl
    · rfl
    · rfl
  have reason : s.role p ≠ .supervise ∨ ¬s.SettingOpen g ∨ g.inRange v = false := by
    rcases refused with role | ⟨e, link⟩ | range
    · exact .inl role
    · exact .inr (.inl fun opened => link (opened e))
    · exact .inr (.inr (Global.not_inRange range))
  rw [row, State.exec_settingRow v h ht, State.writeSetting_refused reason]
  rfl

/-- Settles O50. -/
theorem settingWrites : Obligations.SettingWrites := ⟨settingWriteTaken, settingWriteRefused⟩

end Sys2Proof.Machine
end

section
/-! SUPPORT. SAVE_CONFIG and the three phases of a save (10.6): each cell after a phase, and the save's completion. -/

namespace Sys2Proof.Machine

namespace State

/-! ### SAVE_CONFIG -/

theorem saveConfigAnswer_busy {s : State} {p : Port} (hr : s.role p = .supervise) (save : s.store.save ≠ none) :
    s.saveConfigAnswer p = ⟨s, .busy, 0⟩ := by
  rw [saveConfigAnswer, checkRole_passed _ (supervises_of_role hr)]
  exact if_pos (Option.isSome_iff_ne_none.mpr save)

theorem saveConfigAnswer_free {s : State} {p : Port} (hr : s.role p = .supervise) (save : s.store.save = none) :
    s.saveConfigAnswer p = ⟨s.startSave p, .inProgress, 0⟩ := by
  rw [saveConfigAnswer, checkRole_passed _ (supervises_of_role hr)]
  exact if_neg (by rw [save]; exact Bool.false_ne_true)

end State

/-- Settles O51. -/
theorem saveConfigStartsSave : Obligations.SaveConfigStartsSave := by
  intro p s hc hr
  refine ⟨fun save => ?_, fun save => ?_⟩
  · exact State.cmdWrite_unchanged hc (State.saveConfigAnswer_busy (s := s.modCommand p _) hr save)
  · exact State.cmdWrite_changed (u := s.startSave p) hc
      (State.saveConfigAnswer_free (s := s.modCommand p _) hr save)

/-! ### The cells -/

theorem overlay_nil (start : Nat) (image : List Byte) : overlay [] start image = image := by
  induction image generalizing start with
  | nil => rfl
  | cons v rest ih => exact congrArg (v :: ·) (ih (start + 1))

/-- The body reads back as the image exactly where each cell of it does (R172, R173). -/
theorem overlay_eq_iff {misread : List Host.Cell} {image : List Byte} :
    overlay misread 2 (image.drop 2) = image.drop 2 ↔
      ∀ a, 2 ≤ a → a < image.length → (misread.lookup a).getD (image.getD a 0) = image.getD a 0 := by
  have length : (overlay misread 2 (image.drop 2)).length = (image.drop 2).length := overlay_length _ _ _
  have cell {j : Nat} (h : j < (image.drop 2).length) :
      (overlay misread 2 (image.drop 2)).getD j 0 = (misread.lookup (2 + j)).getD (image.getD (2 + j) 0) ∧
        (image.drop 2).getD j 0 = image.getD (2 + j) 0 := by
    have same : (image.drop 2).getD j 0 = image.getD (2 + j) 0 := by
      rw [List.getD_eq_getElem?_getD, List.getElem?_drop, ← List.getD_eq_getElem?_getD]
    exact ⟨(overlay_getD misread 2 j _ h).trans (by rw [same]), same⟩
  rw [List.length_drop] at cell
  constructor
  · intro e a low high
    obtain ⟨held, same⟩ := cell (j := a - 2) (by omega)
    rw [e, same, Nat.add_sub_cancel' low] at held
    exact held.symm
  · intro h
    refine List.ext_getElem length fun j h1 h2 => ?_
    have h3 : j < image.length - 2 := by rwa [List.length_drop] at h2
    obtain ⟨held, same⟩ := cell h3
    rw [h (2 + j) (by omega) (by omega), ← same] at held
    rwa [List.getD_eq_getElem _ _ h1, List.getD_eq_getElem _ _ h2] at held

namespace State

/-- The cells after the body phase (R172). -/
def bodyCells (s : State) (v : Save) (misread : List Host.Cell) : Memory :=
  Memory.ofBytes 0 (s.cellBytes.take 2 ++ overlay misread 2 (v.image.drop 2))

theorem bodyCells_wf (s : State) (v : Save) (misread : List Host.Cell) : Memory.wf (s.bodyCells v misread) = true :=
  Memory.wf_ofBytes _ _

/-- Each cell after the body phase (R172, log entry 9). -/
theorem read_bodyCells {s : State} {v : Save} (misread : List Host.Cell) (wf : Memory.wf s.store.cells = true)
    (length : v.image.length = 1024) (a : Nat) :
    Memory.read (s.bodyCells v misread) a =
      if 2 ≤ a ∧ a < 1024 then (misread.lookup a).getD (v.image.getD a 0) else Memory.read s.store.cells a := by
  rcases Nat.lt_or_ge a 2 with first | low
  · rw [if_neg (by omega)]
    exact read_saveWritten wf first
  rcases Nat.lt_or_ge a 1024 with high | past
  · have body : a - 2 < (v.image.drop 2).length := by rw [List.length_drop]; omega
    have two : (s.cellBytes.take 2).length = 2 := by rw [List.length_take, cellBytes_length]; rfl
    have size : a - 2 < (overlay misread 2 (v.image.drop 2)).length := by rwa [overlay_length]
    have held := overlay_getD misread 2 (a - 2) (v.image.drop 2) body
    rw [Nat.add_sub_cancel' low, List.getD_eq_getElem?_getD (l := v.image.drop 2), List.getElem?_drop,
      Nat.add_sub_cancel' low, ← List.getD_eq_getElem?_getD] at held
    rw [if_pos ⟨low, high⟩, bodyCells, Memory.read_ofBytes, if_pos ⟨Nat.zero_le _, high⟩, Nat.sub_zero, ← held,
      List.getD_append_right _ _ _ _ (by omega), two, List.getD_eq_getElem _ _ size, List.getD_eq_getElem _ _ size]
  · rw [if_neg (by omega), Memory.read_past wf past]
    exact Memory.read_past (s.bodyCells_wf v misread) past

/-! ### The phases -/

theorem inSave_of {s : State} {v : Save} {phase : SavePhase} (f : Save → State) (save : s.store.save = some v)
    (h : v.phase = phase) : s.inSave phase f = f v := by
  rw [inSave, save]
  exact if_pos h

theorem exec_saveEraseDone {s : State} {v : Save} (save : s.store.save = some v) (h : v.phase = .erase) :
    exec .saveEraseDone s = .next (s.saveErased v).settle :=
  congrArg finish (inSave_of _ save h)

theorem exec_saveBodyDone {s : State} {v : Save} (misread : List Host.Cell) (save : s.store.save = some v)
    (h : v.phase = .body) : exec (.saveBodyDone misread) s = .next (s.saveWritten v misread).settle :=
  congrArg finish (inSave_of _ save h)

theorem exec_saveComplete {s : State} {v : Save} (cell1 cell0 : Byte) (save : s.store.save = some v)
    (h : v.phase = .validation) : exec (.saveComplete cell1 cell0) s = .next (s.saveValidated v cell1 cell0).settle :=
  congrArg finish (inSave_of _ save h)

/-- A body that reads back as the image leads to the last phase (R172). -/
theorem saveWritten_good {s : State} {v : Save} {misread : List Host.Cell}
    (h : overlay misread 2 (v.image.drop 2) = v.image.drop 2) :
    s.saveWritten v misread =
      { s with store := { s.store with cells := s.bodyCells v misread, save := some { v with phase := .validation } } } :=
  if_pos h

/-- A body that reads back otherwise ends the save (R173). -/
theorem saveWritten_bad {s : State} {v : Save} {misread : List Host.Cell}
    (h : overlay misread 2 (v.image.drop 2) ≠ v.image.drop 2) :
    s.saveWritten v misread =
      ({ s with store := { s.store with
        cells := s.bodyCells v misread, save := some { v with phase := .validation } } } : State).completeSave v false 1 :=
  if_neg h

theorem saveValidated_good (s : State) (v : Save) :
    s.saveValidated v 0x6D 0x2E =
      ({ s with store := (s.store.cell 1 0x6D).cell 0 0x2E } : State).completeSave v true 0 := by
  unfold saveValidated
  exact if_pos ⟨rfl, rfl⟩

theorem saveValidated_bad (s : State) (v : Save) {cell1 cell0 : Byte} (h : ¬(cell1 = 0x6D ∧ cell0 = 0x2E)) :
    s.saveValidated v cell1 cell0 =
      ({ s with store := (s.store.cell 1 cell1).cell 0 cell0 } : State).completeSave v false 2 := if_neg h

/-- However the validation word reads back, the save is completed (R173). -/
theorem saveValidated_cases (s : State) (v : Save) (cell1 cell0 : Byte) :
    ∃ good d, s.saveValidated v cell1 cell0 =
      ({ s with store := (s.store.cell 1 cell1).cell 0 cell0 } : State).completeSave v good d := by
  by_cases h : cell1 = 0x6D ∧ cell0 = 0x2E
  · exact ⟨true, 0, if_pos h⟩
  · exact ⟨false, 2, s.saveValidated_bad v h⟩

theorem completeSave_store (s : State) (x : Store) (v : Save) (good : Bool) (d : Byte) :
    (({ s with store := x } : State).completeSave v good d).settle.store = saveEnded x good :=
  (completeSave_frame s x v good d).store

end State

theorem savePhasesWriteCells : Clause.SavePhasesWriteCells := by
  intro v s sound save
  obtain ⟨wf, saves⟩ := sound
  obtain ⟨length, -⟩ := saves v save
  refine ⟨fun phase => ?_, fun phase => ?_, fun phase cell1 cell0 => ?_⟩
  · have wf0 := Memory.wf_write (a := 0) (v := Config.erasedCell) wf
    refine ⟨Memory.write (Memory.write s.store.cells 0 Config.erasedCell) 1 Config.erasedCell, Memory.wf_write wf0,
      fun a => ?_, State.exec_saveEraseDone save phase⟩
    rw [Memory.read_write wf0, Memory.read_write wf]
    rcases a with _ | _ | a <;> rfl
  · refine ⟨s.bodyCells v [], s.bodyCells_wf v [], fun a => State.read_bodyCells [] wf length a, ?_⟩
    rw [State.exec_saveBodyDone [] save phase, State.saveWritten_good (overlay_nil _ _)]
  · obtain ⟨good, d, e⟩ := s.saveValidated_cases v cell1 cell0
    have wf1 := Memory.wf_write (a := 1) (v := cell1) wf
    refine ⟨_, State.exec_saveComplete cell1 cell0 save phase, ?_⟩
    have cells : (State.saveEnded ((s.store.cell 1 cell1).cell 0 cell0) good).cells =
        Memory.write (Memory.write s.store.cells 1 cell1) 0 cell0 := rfl
    rw [e, State.completeSave_store, cells]
    refine ⟨Memory.wf_write wf1, fun a => ?_⟩
    rw [Memory.read_write wf1, Memory.read_write wf]
    rcases a with _ | _ | a <;> rfl

theorem bodyReadsBack : Clause.BodyReadsBack := by
  intro v misread held s sound save phase hheld
  obtain ⟨wf, saves⟩ := sound
  obtain ⟨length, erased⟩ := saves v save
  obtain ⟨erased0, erased1⟩ := erased (by rw [phase]; nofun)
  have cells (a : Nat) : Memory.read (s.bodyCells v misread) a = if 2 ≤ a ∧ a < 1024 then held a else 0xFF := by
    rw [State.read_bodyCells misread wf length, ← hheld]
    by_cases body : 2 ≤ a ∧ a < 1024
    · rw [if_pos body, if_pos body]
    · rw [if_neg body, if_neg body]
      rcases a with _ | _ | a
      · exact erased0
      · exact erased1
      · exact Memory.read_past wf (by unfold Config.storeSize; omega)
  have same : overlay misread 2 (v.image.drop 2) = v.image.drop 2 ↔ ∀ a, 2 ≤ a → a < 1024 → held a = v.image.getD a 0 := by
    rw [overlay_eq_iff, length]
    simp only [hheld]
    exact Iff.rfl
  refine ⟨s.bodyCells v misread, _, State.exec_saveBodyDone misread save phase, s.bodyCells_wf v misread, cells,
    fun good => ?_, fun bad => ?_⟩
  · rw [State.saveWritten_good (same.mpr good)]
  · obtain ⟨a, low, high, differs⟩ := bad
    rw [State.saveWritten_bad fun e => differs (same.mp e a low high), State.completeSave_store]
    rfl

/-! ### The completion -/

/-- Deriving the levels touches CAPTURE_READY alone (R157). -/
theorem PortContext.settle_stickies (c : PortContext) : c.settle.events &&& 0xFE = c.events &&& 0xFE := by
  have ready : c.readyBit &&& 0xFE = 0 := by rcases c.readyBit_cases with h | h <;> rw [h] <;> rfl
  have masked : (c.events &&& 0xFE) &&& 0xFE = c.events &&& 0xFE := by rw [BitVec.and_assoc]; rfl
  show ((c.events &&& 0xFE) ||| c.readyBit) &&& 0xFE = _
  rw [BitVec.and_or_distrib_right, masked, ready]
  exact BitVec.or_zero

namespace State

/-- A completion reports to a port whose command is in progress, and to no other (R149). -/
theorem complete_told {s : State} {p : Port} {code : Byte} (r : Result) (d : Byte)
    (busy : (s.command p).inProgress = true) (hc : (s.command p).code = code) :
    (s.complete p code r d).port p =
      { s.port p with
        command := { s.command p with result := r, detail := d, inProgress := r = .inProgress }
        events := (s.port p).events ||| 0x40 } := by
  rw [complete_in_progress r d busy hc, raise, modCommand, modPort_modPort, modPort_port_self]
  rfl

theorem complete_other {s : State} {p q : Port} {code : Byte} (r : Result) (d : Byte)
    (h : q ≠ p ∨ (s.command q).inProgress = false ∨ (s.command q).code ≠ code) :
    (s.complete p code r d).port q = s.port q := by
  by_cases e : q = p
  · rw [complete_detached r d (by rw [← e]; exact h.resolve_left fun ne => ne e)]
  · unfold complete
    split
    · rw [raise, modPort_port_ne _ _ e, modCommand, modPort_port_ne _ _ e]
    · rfl

end State

/-- What the completion of the save `v` leaves (R173): the store's record of it, its issuer told where it is to be, and all else as
it was. -/
def SaveEndsWith (s : State) (v : Save) (state : StoreState) (last : SaveResult) (r : Result) (detail : Byte) (t : State) : Prop :=
  t.store.state = state ∧ t.store.lastSave = last ∧ t.store.save = none ∧
    t.store.resetCause = s.store.resetCause ∧ t.config = s.config ∧ t.slots = s.slots ∧ t.sched = s.sched ∧
    t.engine = s.engine ∧ t.queue = s.queue ∧ t.capture = s.capture ∧
    (v.tell = true → (s.command v.issuer).inProgress = true → (s.command v.issuer).code = 0x10 →
      t.command v.issuer = { s.command v.issuer with inProgress := false, result := r, detail := detail } ∧
        (t.port v.issuer).events &&& 0xFE = ((s.port v.issuer).events ||| 0x40) &&& 0xFE) ∧
    ∀ p, p ≠ v.issuer ∨ v.tell = false ∨ (s.command p).inProgress = false ∨ (s.command p).code ≠ 0x10 →
      t.command p = s.command p ∧ (t.port p).events &&& 0xFE = (s.port p).events &&& 0xFE

namespace State

/-- The part of a completion that no port is told of. -/
theorem completeSave_eq (s : State) (v : Save) (good : Bool) (d : Byte) :
    s.completeSave v good d =
      if v.tell then ({ s with store := saveEnded s.store good } : State).complete v.issuer 0x10
        (if good then .done else .failedVerify) d
      else { s with store := saveEnded s.store good } := rfl

theorem complete_blocks (s : State) (p : Port) (code : Byte) (r : Result) (d : Byte) :
    ∃ ports, s.complete p code r d = { s with ports := ports } := by
  unfold complete
  split
  · exact ⟨_, rfl⟩
  · exact ⟨s.ports, rfl⟩

theorem completeSave_blocks (s : State) (v : Save) (good : Bool) (d : Byte) :
    ∃ ports, s.completeSave v good d = { s with store := saveEnded s.store good, ports := ports } := by
  rw [completeSave_eq]
  split
  · exact complete_blocks { s with store := saveEnded s.store good } _ _ _ _
  · exact ⟨s.ports, rfl⟩

theorem completeSave_ends (s : State) (x : Store) (cause : x.resetCause = s.store.resetCause) (v : Save) (good : Bool)
    (d : Byte) :
    SaveEndsWith s v (if good then .valid else .defaulted) (if good then .done else .failedVerify)
      (if good then .done else .failedVerify) d (({ s with store := x } : State).completeSave v good d).settle := by
  obtain ⟨ports, blocks⟩ := completeSave_blocks { s with store := x } v good d
  have port (p : Port) : (({ s with store := x } : State).completeSave v good d).settle.port p =
      ((({ s with store := x } : State).completeSave v good d).port p).settle := settle_port _ _
  refine ⟨?_, ?_, ?_, ?_, ?_, ?_, ?_, ?_, ?_, ?_, fun tell busy hc => ?_, fun p h => ?_⟩
  · rw [settle_store, blocks]
    rfl
  · rw [settle_store, blocks]
    rfl
  · rw [settle_store, blocks]
    rfl
  · rw [settle_store, blocks]
    exact cause
  · rw [settle_config, blocks]
  · rw [settle_slots, blocks]
  · rw [settle_sched, blocks]
  · rw [settle_engine, blocks]
  · rw [settle_queue, blocks]
  · rw [settle_capture, blocks]
  · have told : ({ s with store := x } : State).completeSave v good d =
        ({ s with store := saveEnded x good } : State).complete v.issuer 0x10 (if good then .done else .failedVerify) d :=
      if_pos tell
    rw [command, port, PortContext.settle_stickies, told,
      complete_told (s := { s with store := saveEnded x good }) _ d busy hc]
    refine ⟨?_, rfl⟩
    cases good <;> rfl
  · have kept : (({ s with store := x } : State).completeSave v good d).port p = s.port p := by
      rw [completeSave_eq]
      split
      · next tell =>
        exact complete_other (s := { s with store := saveEnded x good }) _ d
          (h.imp_right fun k => k.resolve_left (by rw [tell]; nofun))
      · rfl
    rw [command, port, PortContext.settle_stickies, kept]
    exact ⟨rfl, rfl⟩

end State

theorem saveCompletes : Clause.SaveCompletes := by
  intro v s save c state last r detail way
  rcases way with ⟨phase, rfl, rfl, rfl, rfl, rfl⟩ | ⟨⟨x, y, phase, rfl, wrong⟩, rfl, rfl, rfl, rfl⟩ |
    ⟨⟨misread, a, b, phase, rfl, low, high, named, differs⟩, rfl, rfl, rfl, rfl⟩
  · refine ⟨_, State.exec_saveComplete _ _ save phase, ?_⟩
    rw [State.saveValidated_good]
    exact s.completeSave_ends ((s.store.cell 1 0x6D).cell 0 0x2E) rfl v true 0
  · refine ⟨_, State.exec_saveComplete _ _ save phase, ?_⟩
    rw [State.saveValidated_bad s v wrong]
    exact s.completeSave_ends ((s.store.cell 1 x).cell 0 y) rfl v false 2
  · refine ⟨_, State.exec_saveBodyDone misread save phase, ?_⟩
    have bad : overlay misread 2 (v.image.drop 2) ≠ v.image.drop 2 := fun e => by
      have held := overlay_eq_iff.mp e a low high
      rw [named] at held
      exact differs held.symm
    rw [State.saveWritten_bad bad]
    exact s.completeSave_ends { s.store with
      cells := s.bodyCells v misread, save := some { v with phase := .validation } } rfl v false 1

/-- Settles O52. -/
theorem saveRunsToCompletion : Obligations.SaveRunsToCompletion := ⟨savePhasesWriteCells, bodyReadsBack, saveCompletes⟩

end Sys2Proof.Machine
end
